-- ==== Sys2Proof/Word.lean ====
section
/-! DEFINITION. The words of the machine and the two narrowings of 00_scope.md R7. -/

namespace Sys2Proof

/-- An 8-bit unsigned value: a general register, a timer, a memory cell (R21, R29, R30, R50). -/
abbrev Byte := BitVec 8

/-- A 16-bit unsigned value: I, PC, a stack entry, an opcode (R24, R25, R26, R80). -/
abbrev Word := BitVec 16

/-- A 4-bit index: of a general register (R83) or of a key (R34). -/
abbrev RegIx := BitVec 4

/-- `wrap8(v) = v mod 256` (R7). -/
abbrev wrap8 (v : Nat) : Byte := BitVec.ofNat 8 v

/-- `wrap16(v) = v mod 65536` (R7). -/
abbrev wrap16 (v : Nat) : Word := BitVec.ofNat 16 v

/-- The index of VF, the register that is also the flag (R23). -/
abbrev vf : RegIx := 15

end Sys2Proof
end

