-- ==== Sys2Proof/Config.lean ====
section
/-! DEFINITION. The implementation parameters of 00_scope.md R5: the fixed numbers, the parameters a machine is
built with, and the two values that no parameter fixes (free values: nothing constrains them). -/

namespace Sys2Proof

/-- `MEM_SIZE` (R5, R50). -/
abbrev memSize : Nat := 4096
/-- `PROG_BASE` (R5, R58, R62). -/
abbrev progBase : Nat := 0x200
/-- `NUM_V` (R5, R21). -/
abbrev numV : Nat := 16
/-- `STACK_CAP` (R5, R26). -/
abbrev stackCap : Nat := 16
/-- `FB_W` (R5, R31). -/
abbrev fbWidth : Nat := 64
/-- `FB_H` (R5, R31). -/
abbrev fbHeight : Nat := 32
/-- `NUM_KEYS` (R5, R34). -/
abbrev numKeys : Nat := 16
/-- `TIMER_HZ`, informative only: no rule depends on it (R5, R296). -/
abbrev timerHz : Nat := 60
/-- The number of bytes of `FONT_DATA`: 16 digits of 5 bytes (R59). -/
abbrev fontSize : Nat := 80

/-- `ADDR_MODE` (R5, R52): what an address of 4096 or above does. -/
inductive AddrMode where
  | wrap
  | fatal
deriving DecidableEq, Repr

/-- The parameters of R5 that a machine is built with. Their defaults are `Machine.defaultConfig`. -/
structure Config where
  /-- `ADDR_MODE` -/
  addrMode : AddrMode
  /-- `STRICT_UNKNOWN` -/
  strictUnknown : Bool
  /-- `SHIFT_USES_VY` -/
  shiftUsesVy : Bool
  /-- `JUMP_OFFSET_USES_VX` -/
  jumpOffsetUsesVx : Bool
  /-- `LOADSTORE_INCREMENTS_I` -/
  loadStoreIncrementsI : Bool
  /-- `ADD_I_SETS_VF` -/
  addISetsVf : Bool
  /-- `TIMER_OPS` -/
  timerOps : Bool
  /-- `FONT_BASE` -/
  fontBase : Nat
  /-- `FONT_DATA` -/
  fontData : List Byte
deriving DecidableEq, Repr

/-- R290: "`FONT_BASE + 79` must be at most 0x1FF so the font does not overlap the program area"; R59: the font is
80 bytes. -/
abbrev Config.wf (c : Config) : Prop := c.fontBase + 79 ≤ 0x1FF ∧ c.fontData.length = fontSize

/-- FREE VALUE (log 3): `RNG` (R5), the byte that the n-th draw gives. R153: "any value 0..255, a fresh draw per
execution"; "no claim may assume a value". -/
opaque Config.rngDraw : Nat → Byte

/-- FREE VALUE (log 4): the choice among several just-pressed keys at the n-th draw. R35: "which one is returned is
a draw (any of them)". -/
opaque Config.keyTieBreak : Nat → Nat

end Sys2Proof
end

