-- ==== Sys2Proof/Machine/Defaults.lean ====
section
/-! DEFINITION. The default value of every parameter of 00_scope.md R5, the font of 20_memory.md R59, and what a memory
cell holds after reset (10_state.md R41). -/

namespace Sys2Proof.Machine

/-- `FONT_DATA`, the glyphs of the sixteen hexadecimal digits, top row first (R59). -/
def defaultFont : List Byte :=
  [0xF0, 0x90, 0x90, 0x90, 0xF0,
   0x20, 0x60, 0x20, 0x20, 0x70,
   0xF0, 0x10, 0xF0, 0x80, 0xF0,
   0xF0, 0x10, 0xF0, 0x10, 0xF0] ++
  [0x90, 0x90, 0xF0, 0x10, 0x10,
   0xF0, 0x80, 0xF0, 0x10, 0xF0,
   0xF0, 0x80, 0xF0, 0x90, 0xF0,
   0xF0, 0x10, 0x20, 0x40, 0x40] ++
  [0xF0, 0x90, 0xF0, 0x90, 0xF0,
   0xF0, 0x90, 0xF0, 0x10, 0xF0,
   0xF0, 0x90, 0xF0, 0x90, 0x90,
   0xE0, 0x90, 0xE0, 0x90, 0xE0] ++
  [0xF0, 0x80, 0x80, 0x80, 0xF0,
   0xE0, 0x90, 0x90, 0x90, 0xE0,
   0xF0, 0x80, 0xF0, 0x80, 0xF0,
   0xF0, 0x80, 0xF0, 0x80, 0x80]

/-- The "value / default" column of R5 (log 2). -/
def defaultConfig : Config where
  addrMode := .wrap
  strictUnknown := false
  shiftUsesVy := false
  jumpOffsetUsesVx := false
  loadStoreIncrementsI := false
  addISetsVf := false
  timerOps := true
  fontBase := 0x050
  fontData := defaultFont

/-- What cell `p` holds after reset, which is what an unlisted cell of memory reads as: "0 everywhere, then
`FONT_DATA` at `FONT_BASE..FONT_BASE+79`" (R41, R290; log 10). -/
def resetByte (c : Config) (p : Nat) : Byte :=
  if c.fontBase ≤ p ∧ p < c.fontBase + fontSize then c.fontData.getD (p - c.fontBase) 0 else 0

end Sys2Proof.Machine
end

