-- ==== Sys2Proof/Syntax.lean ====
section
/-! DEFINITION. The instructions: one constructor per row of spec/opcode_table.json, with the operand fields that its
format names (30_encoding.md R82, R83). -/

namespace Sys2Proof

/-- The 34 instructions (30_encoding.md R84). -/
inductive Instr where
  /-- 00E0, R211 -/
  | cls
  /-- 00EE, R110 -/
  | ret
  /-- 1NNN, R111 -/
  | jp (nnn : BitVec 12)
  /-- 2NNN, R112 -/
  | call (nnn : BitVec 12)
  /-- 3XNN, R113 -/
  | seImm (x : RegIx) (nn : Byte)
  /-- 4XNN, R114 -/
  | sneImm (x : RegIx) (nn : Byte)
  /-- 5XY0, R115 -/
  | seReg (x y : RegIx)
  /-- 6XNN, R142 -/
  | ldImm (x : RegIx) (nn : Byte)
  /-- 7XNN, R143 -/
  | addImm (x : RegIx) (nn : Byte)
  /-- 8XY0, R144 -/
  | ldReg (x y : RegIx)
  /-- 8XY1, R145 -/
  | orReg (x y : RegIx)
  /-- 8XY2, R146 -/
  | andReg (x y : RegIx)
  /-- 8XY3, R147 -/
  | xorReg (x y : RegIx)
  /-- 8XY4, R148 -/
  | addReg (x y : RegIx)
  /-- 8XY5, R149 -/
  | sub (x y : RegIx)
  /-- 8XY6, R150 -/
  | shr (x y : RegIx)
  /-- 8XY7, R151 -/
  | subn (x y : RegIx)
  /-- 8XYE, R152 -/
  | shl (x y : RegIx)
  /-- 9XY0, R116 -/
  | sneReg (x y : RegIx)
  /-- ANNN, R181 -/
  | ldI (nnn : BitVec 12)
  /-- BNNN, R117 -/
  | jpV0 (nnn : BitVec 12)
  /-- CXNN, R153 -/
  | rnd (x : RegIx) (nn : Byte)
  /-- DXYN, R212 -/
  | drw (x y : RegIx) (n : BitVec 4)
  /-- EX9E, R230 -/
  | skp (x : RegIx)
  /-- EXA1, R231 -/
  | sknp (x : RegIx)
  /-- FX07, R234 -/
  | ldVxDt (x : RegIx)
  /-- FX0A, R232 -/
  | ldVxK (x : RegIx)
  /-- FX15, R235 -/
  | ldDtVx (x : RegIx)
  /-- FX18, R236 -/
  | ldStVx (x : RegIx)
  /-- FX1E, R182 -/
  | addIVx (x : RegIx)
  /-- FX29, R183 -/
  | ldFVx (x : RegIx)
  /-- FX33, R184 -/
  | ldBVx (x : RegIx)
  /-- FX55, R185 -/
  | ldMemVx (x : RegIx)
  /-- FX65, R186 -/
  | ldVxMem (x : RegIx)
deriving DecidableEq, Repr

/-- The name of the instruction's row in spec/opcode_table.json. -/
def Instr.mnemonic : Instr → String
  | .cls => "CLS"
  | .ret => "RET"
  | .jp _ => "JP"
  | .call _ => "CALL"
  | .seImm _ _ => "SE_IMM"
  | .sneImm _ _ => "SNE_IMM"
  | .seReg _ _ => "SE_REG"
  | .ldImm _ _ => "LD_IMM"
  | .addImm _ _ => "ADD_IMM"
  | .ldReg _ _ => "LD_REG"
  | .orReg _ _ => "OR"
  | .andReg _ _ => "AND"
  | .xorReg _ _ => "XOR"
  | .addReg _ _ => "ADD_REG"
  | .sub _ _ => "SUB"
  | .shr _ _ => "SHR"
  | .subn _ _ => "SUBN"
  | .shl _ _ => "SHL"
  | .sneReg _ _ => "SNE_REG"
  | .ldI _ => "LD_I"
  | .jpV0 _ => "JP_V0"
  | .rnd _ _ => "RND"
  | .drw _ _ _ => "DRW"
  | .skp _ => "SKP"
  | .sknp _ => "SKNP"
  | .ldVxDt _ => "LD_VX_DT"
  | .ldVxK _ => "LD_VX_K"
  | .ldDtVx _ => "LD_DT_VX"
  | .ldStVx _ => "LD_ST_VX"
  | .addIVx _ => "ADD_I_VX"
  | .ldFVx _ => "LD_F_VX"
  | .ldBVx _ => "LD_B_VX"
  | .ldMemVx _ => "LD_MEM_VX"
  | .ldVxMem _ => "LD_VX_MEM"

end Sys2Proof
end

