-- ==== Sys2Proof/WellFormed.lean ====
section
/-! DEFINITION. Which terms of `Instr` are instructions of a machine with a given configuration. The width of every
operand is in its type; what is left to check is `TIMER_OPS` (30_encoding.md R86, R87). -/

namespace Sys2Proof

/-- R87: 34 instructions with `TIMER_OPS`, 31 without (FX07, FX15 and FX18 are then no instructions). -/
def Instr.wellFormed (c : Config) : Instr → Bool
  | .ldVxDt _ => c.timerOps
  | .ldDtVx _ => c.timerOps
  | .ldStVx _ => c.timerOps
  | .cls | .ret | .jp _ | .call _ | .seImm _ _ | .sneImm _ _ | .seReg _ _ | .ldImm _ _ | .addImm _ _
  | .ldReg _ _ | .orReg _ _ | .andReg _ _ | .xorReg _ _ | .addReg _ _ | .sub _ _ | .shr _ _ | .subn _ _
  | .shl _ _ | .sneReg _ _ | .ldI _ | .jpV0 _ | .rnd _ _ | .drw _ _ _ | .skp _ | .sknp _ | .ldVxK _
  | .addIVx _ | .ldFVx _ | .ldBVx _ | .ldMemVx _ | .ldVxMem _ => true

end Sys2Proof
end

