-- ==== Sys2Proof/Decode.lean ====
section
/-! DEFINITION. The decoder, driven by the masked opcode patterns of 30_encoding.md R84, and after it the encoder, which
writes an instruction's word field by field from the formats of R82. -/

namespace Sys2Proof

/-- `x = op[11:8]` (R10, R82). -/
def fieldX (op : Word) : RegIx := op.extractLsb' 8 4
/-- `y = op[7:4]` (R10, R82). -/
def fieldY (op : Word) : RegIx := op.extractLsb' 4 4
/-- `n = op[3:0]` (R10, R82). -/
def fieldN (op : Word) : BitVec 4 := op.extractLsb' 0 4
/-- `nn = op[7:0]` (R10, R82). -/
def fieldNN (op : Word) : Byte := op.extractLsb' 0 8
/-- `nnn = op[11:0]` (R10, R82). -/
def fieldNNN (op : Word) : BitVec 12 := op.extractLsb' 0 12

/-- One row of the opcode table (R84). -/
structure OpcodeRow where
  mnemonic : String
  /-- the word's value under the mask -/
  bits : Word
  mask : Word
  /-- the instruction, its operands taken from the word's fields -/
  build : Word → Instr

/-- R84: "A word matches a row when `op & mask = match`". -/
def OpcodeRow.matchesWord (r : OpcodeRow) (op : Word) : Bool := op &&& r.mask == r.bits

/-- The rows of R84, in its order: classes 0 to 7. -/
def opcodeRowsLow : List OpcodeRow :=
  [⟨"CLS", 0x00E0, 0xFFFF, fun _ => .cls⟩,
   ⟨"RET", 0x00EE, 0xFFFF, fun _ => .ret⟩,
   ⟨"JP", 0x1000, 0xF000, fun op => .jp (fieldNNN op)⟩,
   ⟨"CALL", 0x2000, 0xF000, fun op => .call (fieldNNN op)⟩,
   ⟨"SE_IMM", 0x3000, 0xF000, fun op => .seImm (fieldX op) (fieldNN op)⟩,
   ⟨"SNE_IMM", 0x4000, 0xF000, fun op => .sneImm (fieldX op) (fieldNN op)⟩,
   ⟨"SE_REG", 0x5000, 0xF00F, fun op => .seReg (fieldX op) (fieldY op)⟩,
   ⟨"LD_IMM", 0x6000, 0xF000, fun op => .ldImm (fieldX op) (fieldNN op)⟩,
   ⟨"ADD_IMM", 0x7000, 0xF000, fun op => .addImm (fieldX op) (fieldNN op)⟩]

/-- The rows of R84: class 8. -/
def opcodeRowsAlu : List OpcodeRow :=
  [⟨"LD_REG", 0x8000, 0xF00F, fun op => .ldReg (fieldX op) (fieldY op)⟩,
   ⟨"OR", 0x8001, 0xF00F, fun op => .orReg (fieldX op) (fieldY op)⟩,
   ⟨"AND", 0x8002, 0xF00F, fun op => .andReg (fieldX op) (fieldY op)⟩,
   ⟨"XOR", 0x8003, 0xF00F, fun op => .xorReg (fieldX op) (fieldY op)⟩,
   ⟨"ADD_REG", 0x8004, 0xF00F, fun op => .addReg (fieldX op) (fieldY op)⟩,
   ⟨"SUB", 0x8005, 0xF00F, fun op => .sub (fieldX op) (fieldY op)⟩,
   ⟨"SHR", 0x8006, 0xF00F, fun op => .shr (fieldX op) (fieldY op)⟩,
   ⟨"SUBN", 0x8007, 0xF00F, fun op => .subn (fieldX op) (fieldY op)⟩,
   ⟨"SHL", 0x800E, 0xF00F, fun op => .shl (fieldX op) (fieldY op)⟩]

/-- The rows of R84: classes 9 to F. -/
def opcodeRowsHigh : List OpcodeRow :=
  [⟨"SNE_REG", 0x9000, 0xF00F, fun op => .sneReg (fieldX op) (fieldY op)⟩,
   ⟨"LD_I", 0xA000, 0xF000, fun op => .ldI (fieldNNN op)⟩,
   ⟨"JP_V0", 0xB000, 0xF000, fun op => .jpV0 (fieldNNN op)⟩,
   ⟨"RND", 0xC000, 0xF000, fun op => .rnd (fieldX op) (fieldNN op)⟩,
   ⟨"DRW", 0xD000, 0xF000, fun op => .drw (fieldX op) (fieldY op) (fieldN op)⟩,
   ⟨"SKP", 0xE09E, 0xF0FF, fun op => .skp (fieldX op)⟩,
   ⟨"SKNP", 0xE0A1, 0xF0FF, fun op => .sknp (fieldX op)⟩,
   ⟨"LD_VX_DT", 0xF007, 0xF0FF, fun op => .ldVxDt (fieldX op)⟩,
   ⟨"LD_VX_K", 0xF00A, 0xF0FF, fun op => .ldVxK (fieldX op)⟩,
   ⟨"LD_DT_VX", 0xF015, 0xF0FF, fun op => .ldDtVx (fieldX op)⟩,
   ⟨"LD_ST_VX", 0xF018, 0xF0FF, fun op => .ldStVx (fieldX op)⟩,
   ⟨"ADD_I_VX", 0xF01E, 0xF0FF, fun op => .addIVx (fieldX op)⟩,
   ⟨"LD_F_VX", 0xF029, 0xF0FF, fun op => .ldFVx (fieldX op)⟩,
   ⟨"LD_B_VX", 0xF033, 0xF0FF, fun op => .ldBVx (fieldX op)⟩,
   ⟨"LD_MEM_VX", 0xF055, 0xF0FF, fun op => .ldMemVx (fieldX op)⟩,
   ⟨"LD_VX_MEM", 0xF065, 0xF0FF, fun op => .ldVxMem (fieldX op)⟩]

/-- The 34 rows of R84. -/
def opcodeTable : List OpcodeRow := opcodeRowsLow ++ opcodeRowsAlu ++ opcodeRowsHigh

/-- Why bytes are no instruction. The engine treats the first two alike, as the spec's `Unknown`. -/
inductive DecodeError where
  /-- no row of R84 matches (R85, R86, R88) -/
  | unknownOpcode (op : Word)
  /-- the word of FX07, FX15 or FX18 with `TIMER_OPS` false, which is `Unknown` (R86) -/
  | timerOpsAbsent (op : Word)
  /-- fewer than the two bytes of an instruction (R81) -/
  | truncated (bytes : Nat)
deriving DecidableEq, Repr

/-- What the decoder answers: an instruction or a rejection by name. -/
inductive Decoded where
  | instr (i : Instr)
  | rejected (e : DecodeError)
deriving DecidableEq, Repr

/-- `decode(op)`: "a total, pure function from every 16-bit word to either one instruction of the table below or
`Unknown`" (R84 to R86, R88). -/
def decode (c : Config) (op : Word) : Decoded :=
  match opcodeTable.find? (·.matchesWord op) with
  | none => .rejected (.unknownOpcode op)
  | some r => if (r.build op).wellFormed c then .instr (r.build op) else .rejected (.timerOpsAbsent op)

/-- The word of two consecutive bytes, "big-endian: high byte first" (R54, R80). -/
def bigEndian (hi lo : Byte) : Word := hi ++ lo

/-- Decoding the first instruction of a sequence of bytes, with the bytes after it. -/
def decodeBytes (c : Config) : List Byte → Decoded × List Byte
  | hi :: lo :: rest => (decode c (bigEndian hi lo), rest)
  | bs => (.rejected (.truncated bs.length), bs)

/-- The high byte of a word, the one at the lower address (R54). -/
def highByte (w : Word) : Byte := w.extractLsb' 8 8
/-- The low byte of a word, the one at the higher address (R54). -/
def lowByte (w : Word) : Byte := w.extractLsb' 0 8

/-- Host: the instruction read from the opcode-table word `w` of `nbits` bits, laid out as memory holds it and decoded
in the default configuration (log 14). Every instruction is one 16-bit word (R81). -/
def decodeTableWord (nbits w : Nat) : Option Instr :=
  let word : Word := BitVec.ofNat 16 (w % 2 ^ nbits)
  match decodeBytes Machine.defaultConfig [highByte word, lowByte word] with
  | (.instr i, _) => some i
  | (.rejected _, _) => none

/-! The encoder: the formats of R82, written from the rows' bit patterns. -/

/-- Format `A`: class, nnn. -/
def formatA (c : BitVec 4) (nnn : BitVec 12) : Word := c ++ nnn
/-- Formats `XNN` and `X`: class, x, nn (or the sub-opcode in nn). -/
def formatXNN (c : BitVec 4) (x : RegIx) (nn : Byte) : Word := c ++ (x ++ nn : BitVec 12)
/-- Formats `XY` and `XYN`: class, x, y, n (or the sub-opcode in n). -/
def formatXYN (c : BitVec 4) (x y : RegIx) (n : BitVec 4) : Word := c ++ (x ++ (y ++ n : Byte) : BitVec 12)

/-- The word of an instruction (R82, R84). -/
def encode : Instr → Word
  | .cls => 0x00E0
  | .ret => 0x00EE
  | .jp nnn => formatA 0x1 nnn
  | .call nnn => formatA 0x2 nnn
  | .seImm x nn => formatXNN 0x3 x nn
  | .sneImm x nn => formatXNN 0x4 x nn
  | .seReg x y => formatXYN 0x5 x y 0x0
  | .ldImm x nn => formatXNN 0x6 x nn
  | .addImm x nn => formatXNN 0x7 x nn
  | .ldReg x y => formatXYN 0x8 x y 0x0
  | .orReg x y => formatXYN 0x8 x y 0x1
  | .andReg x y => formatXYN 0x8 x y 0x2
  | .xorReg x y => formatXYN 0x8 x y 0x3
  | .addReg x y => formatXYN 0x8 x y 0x4
  | .sub x y => formatXYN 0x8 x y 0x5
  | .shr x y => formatXYN 0x8 x y 0x6
  | .subn x y => formatXYN 0x8 x y 0x7
  | .shl x y => formatXYN 0x8 x y 0xE
  | .sneReg x y => formatXYN 0x9 x y 0x0
  | .ldI nnn => formatA 0xA nnn
  | .jpV0 nnn => formatA 0xB nnn
  | .rnd x nn => formatXNN 0xC x nn
  | .drw x y n => formatXYN 0xD x y n
  | .skp x => formatXNN 0xE x 0x9E
  | .sknp x => formatXNN 0xE x 0xA1
  | .ldVxDt x => formatXNN 0xF x 0x07
  | .ldVxK x => formatXNN 0xF x 0x0A
  | .ldDtVx x => formatXNN 0xF x 0x15
  | .ldStVx x => formatXNN 0xF x 0x18
  | .addIVx x => formatXNN 0xF x 0x1E
  | .ldFVx x => formatXNN 0xF x 0x29
  | .ldBVx x => formatXNN 0xF x 0x33
  | .ldMemVx x => formatXNN 0xF x 0x55
  | .ldVxMem x => formatXNN 0xF x 0x65

/-- The two bytes of an instruction as memory holds them (R54). -/
def encodeBytes (i : Instr) : List Byte := [highByte (encode i), lowByte (encode i)]

end Sys2Proof
end

