-- ==== Sys2Proof/Machine/State.lean ====
section
/-! DEFINITION. The state of the machine (10_state.md R20) as plain data, its reset value (R41), and the reasons a step
could stop. -/

namespace Sys2Proof.Machine

/-- The halt reasons, a closed set (R33, R261). -/
inductive HaltReason where
  | stackOverflow
  | stackUnderflow
  | unknownOpcode
  | addressOutOfRange
deriving DecidableEq, Repr

/-- The engine state `run` (R32). -/
inductive RunState where
  | running
  /-- waiting for a key, which register `x` will receive (R233) -/
  | waitingForKey (x : RegIx)
  | halted (r : HaltReason)
deriving DecidableEq, Repr

/-- Memory as the cells that differ from their reset contents, by rising address (log 10). -/
abbrev Memory := List Host.Cell

/-- The framebuffer, "64×32 grid of 1-bit pixels, row-major": bit `x` of row `y` is pixel (x, y) (R31; log 9). -/
abbrev Framebuffer := Vector (BitVec 64) 32

/-- The framebuffer with every pixel off. -/
def blankFramebuffer : Framebuffer := Vector.replicate 32 0

/-- The machine state of R20; `cfg` and `draws` are the model's own (logs 1 and 3). -/
structure State where
  /-- the configuration of R5, which no operation changes (R6) -/
  cfg : Config
  /-- V0 to VF (R21) -/
  v : Vector Byte 16
  /-- I (R24) -/
  iReg : Word
  /-- PC (R25) -/
  pc : Word
  /-- the call stack, oldest entry first, top last (R26) -/
  stack : List Word
  /-- DT (R29) -/
  dt : Byte
  /-- ST (R30) -/
  st : Byte
  /-- mem (R50) -/
  mem : Memory
  /-- fb (R31) -/
  fb : Framebuffer
  /-- run (R32) -/
  run : RunState
  /-- keys (R34) -/
  keys : Vector Bool 16
  /-- prev_keys (R35) -/
  prevKeys : Vector Bool 16
  /-- diag: (opcode, address), oldest first (R36) -/
  diag : List (Word × Word)
  /-- render_pending (R37) -/
  renderPending : Bool
  /-- how many free values have been drawn -/
  draws : Nat
deriving DecidableEq, Repr

/-- The reasons a step could stop without a next state. There is none: every exception of the machine is a halt,
which is a next state (R261, R262, R91; log 7), so this closed set is empty. -/
inductive Fault where
deriving DecidableEq, Repr

/-- The reasons a step could give no meaning. -/
inductive Refusal where
  /-- Raised by an arm of `exec` whose instruction has no meaning yet; no arm raises it. Safe: the run stops. -/
  | notModelled (mnemonic : String)
deriving DecidableEq, Repr

/-- Every component at its reset value (R41, R290), in configuration `c`, with `draws` free values already drawn. -/
def State.resetWith (c : Config) (draws : Nat) : State where
  cfg := c
  v := Vector.replicate 16 0
  iReg := 0
  pc := 0x200
  stack := []
  dt := 0
  st := 0
  mem := []
  fb := blankFramebuffer
  run := .running
  keys := Vector.replicate 16 false
  prevKeys := Vector.replicate 16 false
  diag := []
  renderPending := false
  draws := draws

/-- The machine right after machine initialization (R291), in the default configuration of R5. -/
def State.reset : State := State.resetWith defaultConfig 0

end Sys2Proof.Machine
end

