-- ==== Sys2Proof/Machine/Ops.lean ====
section
/-! DEFINITION. The named operations over the state that the meanings share: registers, memory, the call stack, the
program counter, draws, and the taking of a halt. -/

namespace Sys2Proof.Machine

/-! ### Registers (R9, R21 to R25) -/

/-- `V[x]`. -/
def readV (s : State) (x : RegIx) : Byte := s.v[x.toNat]'x.isLt
/-- `V[x] <- b`. -/
def writeV (s : State) (x : RegIx) (b : Byte) : State := { s with v := s.v.set x.toNat b x.isLt }
/-- `V[15] <- b`, the last register write of an instruction that writes a flag (R23, R141). -/
def writeVF (s : State) (b : Byte) : State := writeV s vf b
/-- `I <- w`: all 16 bits (R24). -/
def writeI (s : State) (w : Word) : State := { s with iReg := w }
/-- `PC <- w`: all 16 bits, with no check (R25, R118). -/
def writePC (s : State) (w : Word) : State := { s with pc := w }
/-- `DT <- b`. -/
def writeDT (s : State) (b : Byte) : State := { s with dt := b }
/-- `ST <- b`. -/
def writeST (s : State) (b : Byte) : State := { s with st := b }
/-- `run <- r`. -/
def writeRun (s : State) (r : RunState) : State := { s with run := r }
/-- `fb <- f`. -/
def writeFb (s : State) (f : Framebuffer) : State := { s with fb := f }
/-- `render_pending <- b` (R37). -/
def writeRenderPending (s : State) (b : Bool) : State := { s with renderPending := b }
/-- `V[0], V[1], … <- bs`, in ascending order (R186). -/
def writeRegsFrom (s : State) (first : Nat) : List Byte → State
  | [] => s
  | b :: bs => writeRegsFrom (writeV s (BitVec.ofNat 4 first) b) (first + 1) bs

/-- The generic advance `PC <- PC + 2` (R89, R90). -/
def advance (s : State) : State := writePC s (s.pc + 2)
/-- A skip: `PC <- PC + 4` when the condition holds, else `PC <- PC + 2` (R90, R118). -/
def skipIf (s : State) (cond : Bool) : State := writePC s (s.pc + if cond then 4 else 2)

/-! ### Halts (R262) -/

/-- Halt entry: `run <- Halted(r)` and no other effect; PC keeps the instruction's address (R262). There is no
return from a halt: only a program load leaves it (R263). -/
def raiseHalt (r : HaltReason) (s : State) : State := { s with run := .halted r }

/-- How an instruction that began in `s` ends: in its result, or in a halt of `s` itself, so that a halting
instruction has no effect but the halt (R53, R262). -/
def complete (s : State) : Except HaltReason State → Host.Outcome State Fault Refusal
  | .ok t => .next t
  | .error r => .next (raiseHalt r s)

/-! ### Memory (20_memory.md) -/

/-- The value of cell `p`: its listed value, or its reset contents. -/
def Memory.read (c : Config) : Memory → Nat → Byte
  | [], p => resetByte c p
  | (q, b) :: m, p => if q = p then b else Memory.read c m p

/-- Writing cell `p` keeps the canonical form: rising addresses, no cell at its reset contents. -/
def Memory.write (c : Config) : Memory → Nat → Byte → Memory
  | [], p, b => if b = resetByte c p then [] else [(p, b)]
  | (q, d) :: m, p, b =>
    if p < q then (if b = resetByte c p then (q, d) :: m else (p, b) :: (q, d) :: m)
    else if p = q then (if b = resetByte c p then m else (p, b) :: m)
    else (q, d) :: Memory.write c m p b

/-- The canonical form for the cells from `lo` on. -/
def Memory.wfFrom (c : Config) : Nat → Memory → Bool
  | _, [] => true
  | lo, (q, b) :: m => decide (lo ≤ q) && decide (q < memSize) && decide (b ≠ resetByte c q) && Memory.wfFrom c (q + 1) m

/-- The canonical form: addresses below 4096 strictly rising, no cell at its reset contents (log 10). -/
def Memory.wf (c : Config) (m : Memory) : Bool := Memory.wfFrom c 0 m

/-- `mem[p]`. -/
def readCell (s : State) (p : Nat) : Byte := Memory.read s.cfg s.mem p
/-- `mem[p] <- b`. -/
def writeCell (s : State) (p : Nat) (b : Byte) : State := { s with mem := Memory.write s.cfg s.mem p b }
/-- `mem[p] <- b` for each pair, in order. -/
def writeCells (s : State) : List (Nat × Byte) → State
  | [] => s
  | (p, b) :: pbs => writeCells (writeCell s p b) pbs

/-- `phys(a)` (R52); `none` is `raise Halt(AddressOutOfRange)`. -/
def phys (c : Config) (a : Nat) : Option Nat :=
  match c.addrMode with
  | .wrap => some (a % memSize)
  | .fatal => if a < memSize then some a else none

/-- The cells of the `n` addresses `a, a + 1, …`, each through `phys` separately and in ascending order (R56, R180);
`none` when any one of them is out of range (R53). -/
def physRange (c : Config) (a : Nat) : Nat → Option (List Nat)
  | 0 => some []
  | n + 1 =>
    match phys c a, physRange c (a + 1) n with
    | some p, some ps => some (p :: ps)
    | _, _ => none

/-- Reading `n` bytes at `a`, all addresses checked first (R53, R56). -/
def loadBytes (s : State) (a n : Nat) : Except HaltReason (List Byte) :=
  match physRange s.cfg a n with
  | some ps => .ok (ps.map (readCell s))
  | none => .error .addressOutOfRange

/-- Writing bytes at `a`, all addresses checked before the first write (R53, R56). -/
def storeBytes (s : State) (a : Nat) (bs : List Byte) : Except HaltReason State :=
  match physRange s.cfg a bs.length with
  | some ps => .ok (writeCells s (ps.zip bs))
  | none => .error .addressOutOfRange

/-! ### Call stack (R26 to R28) -/

/-- `Push(v)`: the check precedes the push (R27). A stack deeper than 16 counts as full (log 11). -/
def push (s : State) (w : Word) : Except HaltReason State :=
  if s.stack.length < stackCap then .ok { s with stack := s.stack ++ [w] } else .error .stackOverflow

/-- `Pop()`: the top entry and the state without it (R28). -/
def pop (s : State) : Except HaltReason (Word × State) :=
  match s.stack.getLast? with
  | some w => .ok (w, { s with stack := s.stack.dropLast })
  | none => .error .stackUnderflow

/-! ### Draws and the diagnostic log -/

/-- `draw8()`: an unconstrained byte, a fresh one each time (R9, R153; log 3). -/
def draw8 (s : State) : Byte × State := (Config.rngDraw s.draws, { s with draws := s.draws + 1 })

/-- `log(op, a)` (R36). -/
def appendDiag (s : State) (op a : Word) : State := { s with diag := s.diag ++ [(op, a)] }

end Sys2Proof.Machine
end

