-- ==== Sys2Proof/Machine/Operands.lean ====
section
/-! DEFINITION. Operand forms and result arithmetic: exact on natural numbers or integers, then narrowed (41_alu.md R140). -/

namespace Sys2Proof.Machine

/-- `zext_16(nnn)` (R83). -/
def zext16 (nnn : BitVec 12) : Word := nnn.setWidth 16

/-- `(a + b) mod 256` (R140). -/
def wrappedSum (a b : Byte) : Byte := wrap8 (a.toNat + b.toNat)
/-- `(a - b) mod 256`, computed on integers (R140). -/
def wrappedDiff (a b : Byte) : Byte := BitVec.ofInt 8 ((a.toNat : Int) - (b.toNat : Int))
/-- `v >> 1`, logical (R150). -/
def halved (v : Byte) : Byte := wrap8 (v.toNat / 2)
/-- `(v << 1) mod 256` (R152). -/
def doubled (v : Byte) : Byte := wrap8 (v.toNat * 2)

/-- The shift source: VX, or VY, which "is read only when `SHIFT_USES_VY` is true" (R93, R150, R152). -/
def shiftSource (s : State) (x y : RegIx) : Byte := if s.cfg.shiftUsesVy then readV s y else readV s x

/-- The offset of BNNN: V0, or `V[nnn[11:8]]` when `JUMP_OFFSET_USES_VX` (R93, R117). -/
def jumpOffset (s : State) (nnn : BitVec 12) : Byte :=
  if s.cfg.jumpOffsetUsesVx then readV s (nnn.extractLsb' 8 4) else readV s 0

/-- The target of BNNN: `zext_16(nnn) + r`, not masked (R117). -/
def offsetTarget (s : State) (nnn : BitVec 12) : Word := wrap16 (nnn.toNat + (jumpOffset s nnn).toNat)

/-- `v & 0x0F`, as the index of a key or of a digit (R183, R230, R231). -/
def lowNibble (v : Byte) : RegIx := v.setWidth 4

/-- `keys[V[x] & 0x0F]` (R230). -/
def keyOf (s : State) (x : RegIx) : Bool := s.keys[(lowNibble (readV s x)).toNat]'(lowNibble (readV s x)).isLt

/-- `FONT_BASE + 5 * (v & 0x0F)` (R183). -/
def digitAddress (c : Config) (v : Byte) : Word := wrap16 (c.fontBase + 5 * (lowNibble v).toNat)

/-- Hundreds, tens and units digits of `v` (R184). -/
def bcdDigits (v : Byte) : List Byte := [wrap8 (v.toNat / 100), wrap8 (v.toNat / 10 % 10), wrap8 (v.toNat % 10)]

/-- The exact sum `I + V[x]` of FX1E (R182). -/
def indexSum (s : State) (x : RegIx) : Nat := s.iReg.toNat + (readV s x).toNat

/-- The values of V0 to VX, in ascending order (R185). -/
def regsUpTo (s : State) (x : RegIx) : List Byte := (List.range (x.toNat + 1)).map fun k => readV s (BitVec.ofNat 4 k)

/-- `if LOADSTORE_INCREMENTS_I then I <- wrap16(I + x + 1)`, `i0` the I before the instruction (R185, R186). -/
def incrementI (s : State) (i0 : Word) (x : RegIx) : State :=
  if s.cfg.loadStoreIncrementsI then writeI s (wrap16 (i0.toNat + x.toNat + 1)) else s

end Sys2Proof.Machine
end

