-- ==== Sys2Proof/Machine/Flags.lean ====
section
/-! DEFINITION. The values written to VF, the machine's only flag (10_state.md R23; 41_alu.md R140). -/

namespace Sys2Proof.Machine

/-- A flag as the byte VF holds: 1 or 0. -/
def flagByte (b : Bool) : Byte := if b then 1 else 0

/-- 8XY4: "1 if s > 255" (R148). -/
def carryFlag (a b : Byte) : Byte := flagByte (decide (a.toNat + b.toNat > 255))
/-- 8XY5 and 8XY7, minuend first: "1 if a >= b", 1 = no borrow (R149, R151). -/
def noBorrowFlag (a b : Byte) : Byte := flagByte (decide (a.toNat ≥ b.toNat))
/-- 8XY6: `v & 1`, the bit shifted out (R150). -/
def shiftedOutRight (v : Byte) : Byte := flagByte (v.getLsbD 0)
/-- 8XYE: `v >> 7`, the bit shifted out (R152). -/
def shiftedOutLeft (v : Byte) : Byte := flagByte (v.getLsbD 7)
/-- FX1E with `ADD_I_SETS_VF`: "1 if s > 0x0FFF" (R182). -/
def indexOverflowFlag (sum : Nat) : Byte := flagByte (decide (sum > 0x0FFF))
/-- DXYN: "1 if collide" (R212). -/
def collisionFlag (collide : Bool) : Byte := flagByte collide

end Sys2Proof.Machine
end

