-- ==== Sys2Proof/Machine/Alu.lean ====
section
/-! DEFINITION. Register arithmetic and logic (41_alu.md). Operands are read before the first write, the destination is
written next and VF last (R141); each meaning ends with the generic advance (R90). -/

namespace Sys2Proof.Machine

/-- `V[x] <- b`, then the generic advance: an instruction that writes no flag. -/
def writeResult (s : State) (x : RegIx) (b : Byte) : Host.Outcome State Fault Refusal := .next (advance (writeV s x b))

/-- `V[x] <- b`, then `V[15] <- f`, then the generic advance (R141). -/
def writeResultAndFlag (s : State) (x : RegIx) (b f : Byte) : Host.Outcome State Fault Refusal :=
  .next (advance (writeVF (writeV s x b) f))

/-- 6XNN, load immediate (R142). -/
def execLdImm (x : RegIx) (nn : Byte) (s : State) : Host.Outcome State Fault Refusal := writeResult s x nn

/-- 7XNN, add immediate, no flag (R143). -/
def execAddImm (x : RegIx) (nn : Byte) (s : State) : Host.Outcome State Fault Refusal :=
  writeResult s x (wrappedSum (readV s x) nn)

/-- 8XY0, copy (R144). -/
def execLdReg (x y : RegIx) (s : State) : Host.Outcome State Fault Refusal := writeResult s x (readV s y)

/-- 8XY1, OR; VF is not reset (R145). -/
def execOrReg (x y : RegIx) (s : State) : Host.Outcome State Fault Refusal := writeResult s x (readV s x ||| readV s y)

/-- 8XY2, AND (R146). -/
def execAndReg (x y : RegIx) (s : State) : Host.Outcome State Fault Refusal := writeResult s x (readV s x &&& readV s y)

/-- 8XY3, XOR (R147). -/
def execXorReg (x y : RegIx) (s : State) : Host.Outcome State Fault Refusal := writeResult s x (readV s x ^^^ readV s y)

/-- 8XY4, add registers (R148). -/
def execAddReg (x y : RegIx) (s : State) : Host.Outcome State Fault Refusal :=
  writeResultAndFlag s x (wrappedSum (readV s x) (readV s y)) (carryFlag (readV s x) (readV s y))

/-- 8XY5, VX − VY (R149). -/
def execSub (x y : RegIx) (s : State) : Host.Outcome State Fault Refusal :=
  writeResultAndFlag s x (wrappedDiff (readV s x) (readV s y)) (noBorrowFlag (readV s x) (readV s y))

/-- 8XY6, shift right (R150). -/
def execShr (x y : RegIx) (s : State) : Host.Outcome State Fault Refusal :=
  writeResultAndFlag s x (halved (shiftSource s x y)) (shiftedOutRight (shiftSource s x y))

/-- 8XY7, VY − VX (R151). -/
def execSubn (x y : RegIx) (s : State) : Host.Outcome State Fault Refusal :=
  writeResultAndFlag s x (wrappedDiff (readV s y) (readV s x)) (noBorrowFlag (readV s y) (readV s x))

/-- 8XYE, shift left (R152). -/
def execShl (x y : RegIx) (s : State) : Host.Outcome State Fault Refusal :=
  writeResultAndFlag s x (doubled (shiftSource s x y)) (shiftedOutLeft (shiftSource s x y))

/-- CXNN, a fresh draw masked by nn (R153; log 3). -/
def execRnd (x : RegIx) (nn : Byte) (s : State) : Host.Outcome State Fault Refusal :=
  writeResult (draw8 s).2 x ((draw8 s).1 &&& nn)

end Sys2Proof.Machine
end

