-- ==== Sys2Proof/Machine/Control.lean ====
section
/-! DEFINITION. Control transfer (40_control_flow.md): each meaning writes PC itself and gets no generic advance (R90). -/

namespace Sys2Proof.Machine

/-- 00EE, return (R110). -/
def execRet (s : State) : Host.Outcome State Fault Refusal :=
  complete s ((pop s).map fun (t, s1) => writePC s1 t)

/-- 1NNN, jump (R111). -/
def execJp (nnn : BitVec 12) (s : State) : Host.Outcome State Fault Refusal := .next (writePC s (zext16 nnn))

/-- 2NNN, call: pushes the address after the call (R112; conflict C1). -/
def execCall (nnn : BitVec 12) (s : State) : Host.Outcome State Fault Refusal :=
  complete s ((push s (s.pc + 2)).map fun s1 => writePC s1 (zext16 nnn))

/-- 3XNN, skip if equal immediate (R113). -/
def execSeImm (x : RegIx) (nn : Byte) (s : State) : Host.Outcome State Fault Refusal :=
  .next (skipIf s (decide (readV s x = nn)))

/-- 4XNN, skip if not equal immediate (R114). -/
def execSneImm (x : RegIx) (nn : Byte) (s : State) : Host.Outcome State Fault Refusal :=
  .next (skipIf s (decide (readV s x ≠ nn)))

/-- 5XY0, skip if registers equal (R115). -/
def execSeReg (x y : RegIx) (s : State) : Host.Outcome State Fault Refusal :=
  .next (skipIf s (decide (readV s x = readV s y)))

/-- 9XY0, skip if registers not equal (R116). -/
def execSneReg (x y : RegIx) (s : State) : Host.Outcome State Fault Refusal :=
  .next (skipIf s (decide (readV s x ≠ readV s y)))

/-- BNNN, jump with offset (R117). -/
def execJpV0 (nnn : BitVec 12) (s : State) : Host.Outcome State Fault Refusal := .next (writePC s (offsetTarget s nnn))

end Sys2Proof.Machine
end

