-- ==== Sys2Proof/Machine/Display.lean ====
section
/-! DEFINITION. The framebuffer and its instructions (10_state.md R31; 43_display.md). -/

namespace Sys2Proof.Machine

/-- `fb[x, y]` (R31); off outside the grid, where no rule reads. -/
def pixel (f : Framebuffer) (x y : Nat) : Bool := if h : y < 32 then (f[y]'h).getLsbD x else false
/-- `fb[x, y] <- fb[x, y] ^ 1` (R212). -/
def togglePixel (f : Framebuffer) (x y : Nat) : Framebuffer :=
  if h : y < 32 then f.set y (f[y]'h ^^^ BitVec.twoPow 64 x) h else f

/-- Whether column `c` of a sprite row is set: bit 7 is the leftmost pixel (R210). -/
def spriteBit (row : Byte) (c : Nat) : Bool := row.getLsbD (7 - c)

/-- The pixels that one sprite row at (x0, y) lands on, each wrapped (R212). -/
def rowPixels (x0 y : Nat) (row : Byte) : List (Nat × Nat) :=
  ((List.range 8).filter (spriteBit row)).map fun c => ((x0 + c) % fbWidth, y % fbHeight)

/-- The pixels that a sprite at (x0, y0) lands on, top row first (R212). -/
def spritePixels (x0 y0 : Nat) : List Byte → List (Nat × Nat)
  | [] => []
  | row :: rows => rowPixels x0 y0 row ++ spritePixels x0 (y0 + 1) rows

/-- Toggling one pixel and noting whether it was on (R212). -/
def drawPixel (acc : Framebuffer × Bool) (p : Nat × Nat) : Framebuffer × Bool :=
  (togglePixel acc.1 p.1 p.2, acc.2 || pixel acc.1 p.1 p.2)

/-- The framebuffer after a sprite is drawn, and whether any toggle turned an on-pixel off (R212). -/
def drawSprite (f : Framebuffer) (x0 y0 : Nat) (rows : List Byte) : Framebuffer × Bool :=
  (spritePixels x0 y0 rows).foldl drawPixel (f, false)

/-- `V[x] mod 64`, the column a sprite starts in (R212). -/
def startColumn (v : Byte) : Nat := v.toNat % fbWidth
/-- `V[y] mod 32`, the row a sprite starts in (R212). -/
def startRow (v : Byte) : Nat := v.toNat % fbHeight

/-- The effect of DXYN once its sprite rows are read: framebuffer, VF last, render notification (R212). -/
def drawRows (s : State) (x y : RegIx) (rows : List Byte) : State :=
  let r := drawSprite s.fb (startColumn (readV s x)) (startRow (readV s y)) rows
  writeRenderPending (writeVF (writeFb s r.1) (collisionFlag r.2)) true

/-- 00E0, clear screen (R211; conflict C5). -/
def execCls (s : State) : Host.Outcome State Fault Refusal := .next (advance (writeRenderPending (writeFb s blankFramebuffer) true))

/-- DXYN, draw sprite (R212). -/
def execDrw (x y : RegIx) (n : BitVec 4) (s : State) : Host.Outcome State Fault Refusal :=
  complete s ((loadBytes s s.iReg.toNat n.toNat).map fun rows => advance (drawRows s x y rows))

end Sys2Proof.Machine
end

