-- ==== Sys2Proof/Machine/IndexMemory.lean ====
section
/-! DEFINITION. The address register and memory instructions (42_index_memory.md). -/

namespace Sys2Proof.Machine

/-- ANNN, set I (R181). -/
def execLdI (nnn : BitVec 12) (s : State) : Host.Outcome State Fault Refusal := .next (advance (writeI s (zext16 nnn)))

/-- FX1E, add VX to I; VF last, and only with `ADD_I_SETS_VF` (R182). -/
def execAddIVx (x : RegIx) (s : State) : Host.Outcome State Fault Refusal :=
  let s1 := writeI s (wrap16 (indexSum s x))
  .next (advance (if s.cfg.addISetsVf then writeVF s1 (indexOverflowFlag (indexSum s x)) else s1))

/-- FX29, font sprite address (R183; conflict C8). -/
def execLdFVx (x : RegIx) (s : State) : Host.Outcome State Fault Refusal :=
  .next (advance (writeI s (digitAddress s.cfg (readV s x))))

/-- FX33, store binary-coded decimal (R184). -/
def execLdBVx (x : RegIx) (s : State) : Host.Outcome State Fault Refusal :=
  complete s ((storeBytes s s.iReg.toNat (bcdDigits (readV s x))).map advance)

/-- FX55, register dump (R185). -/
def execLdMemVx (x : RegIx) (s : State) : Host.Outcome State Fault Refusal :=
  complete s ((storeBytes s s.iReg.toNat (regsUpTo s x)).map fun s1 => advance (incrementI s1 s.iReg x))

/-- FX65, register load (R186). -/
def execLdVxMem (x : RegIx) (s : State) : Host.Outcome State Fault Refusal :=
  complete s ((loadBytes s s.iReg.toNat (x.toNat + 1)).map fun bs => advance (incrementI (writeRegsFrom s 0 bs) s.iReg x))

end Sys2Proof.Machine
end

