-- ==== Sys2Proof/Machine/Input.lean ====
section
/-! DEFINITION. Keys and timers (44_input_timer.md), with the key latch's edge detection (10_state.md R35). -/

namespace Sys2Proof.Machine

/-- EX9E, skip if key pressed (R230). -/
def execSkp (x : RegIx) (s : State) : Host.Outcome State Fault Refusal := .next (skipIf s (keyOf s x))

/-- EXA1, skip if key not pressed (R231). -/
def execSknp (x : RegIx) (s : State) : Host.Outcome State Fault Refusal := .next (skipIf s (!keyOf s x))

/-- FX0A, wait for key: this step only enters the wait (R232). -/
def execLdVxK (x : RegIx) (s : State) : Host.Outcome State Fault Refusal :=
  .next (advance (writeRun s (.waitingForKey x)))

/-- FX07, read delay timer (R234). -/
def execLdVxDt (x : RegIx) (s : State) : Host.Outcome State Fault Refusal := .next (advance (writeV s x s.dt))

/-- FX15, set delay timer (R235). -/
def execLdDtVx (x : RegIx) (s : State) : Host.Outcome State Fault Refusal := .next (advance (writeDT s (readV s x)))

/-- FX18, set sound timer (R236). -/
def execLdStVx (x : RegIx) (s : State) : Host.Outcome State Fault Refusal := .next (advance (writeST s (readV s x)))

/-- Key `k` is just pressed: `keys[k]` and not `prev_keys[k]` (R35). -/
def justPressed (s : State) (k : RegIx) : Bool := s.keys[k.toNat]'k.isLt && !(s.prevKeys[k.toNat]'k.isLt)

/-- The sixteen key indices (R34). -/
def allKeys : List RegIx := (List.range numKeys).map (BitVec.ofNat 4)

/-- The keys that are just pressed, lowest index first (R35). -/
def justPressedKeys (s : State) : List RegIx := allKeys.filter (justPressed s)

/-- `anyJustPressed()`: "when several keys are just pressed, which one is returned is a draw (any of them)" (R35;
log 4). -/
def anyJustPressed (s : State) : Option RegIx :=
  match justPressedKeys s with
  | [] => none
  | [k] => some k
  | k :: k' :: ks => some ((k :: k' :: ks).getD (Config.keyTieBreak s.draws % (ks.length + 2)) k)

/-- The step in `WaitingForKey(x)`: no fetch; a just-pressed key goes to V[x] and resumes the engine (R233). The
counter of free values advances on resuming (log 4). -/
def stepWaiting (x : RegIx) (s : State) : State :=
  match anyJustPressed s with
  | none => s
  | some k => { writeRun (writeV s x (k.setWidth 8)) .running with draws := s.draws + 1 }

end Sys2Proof.Machine
end

