-- ==== Sys2Proof/Machine/Engine.lean ====
section
/-! DEFINITION. The engine around an instruction: fetch, the unknown opcode, and one step by engine state
(30_encoding.md R80, R89, R91, R92). -/

namespace Sys2Proof.Machine

/-- Fetch: the two bytes at PC, high byte first; `PC + 1` is computed before `phys` and both addresses are checked
(R53, R56, R80). -/
def fetch (s : State) : Except HaltReason Word :=
  match phys s.cfg s.pc.toNat, phys s.cfg (s.pc.toNat + 1) with
  | some p, some q => .ok (bigEndian (readCell s p) (readCell s q))
  | _, _ => .error .addressOutOfRange

/-- An unknown word: a halt in strict mode, else logged with its address and skipped (R92). -/
def unknownOpcode (op : Word) (s : State) : State :=
  if s.cfg.strictUnknown then raiseHalt .unknownOpcode s else advance (appendDiag s op s.pc)

/-- The step in `Running`: fetch, decode, execute (R89); the first halt that applies wins (R264). -/
def stepRunning (s : State) : Host.Outcome State Fault Refusal :=
  match fetch s with
  | .error r => .next (raiseHalt r s)
  | .ok op =>
    match decode s.cfg op with
    | .instr i => exec i s
    | .rejected _ => .next (unknownOpcode op s)

/-- One `step()` by engine state: an instruction, a poll of the keys, or nothing (R89, R91, R233, R263). -/
def engineStep (s : State) : Host.Outcome State Fault Refusal :=
  match s.run with
  | .running => stepRunning s
  | .waitingForKey x => .next (stepWaiting x s)
  | .halted _ => .next s

/-- `s` made ready to fetch: running, and at the reset entry point if both bytes at its PC cannot be fetched
(Fatal mode at 4095 and above; log 13). -/
def readyToFetch (s : State) : State :=
  match physRange s.cfg s.pc.toNat 2 with
  | some _ => writeRun s .running
  | none => writePC (writeRun s .running) (wrap16 progBase)

/-- `s` ready to fetch, with the word `w` where it will fetch. -/
def placeWord (s : State) (w : Word) : State :=
  let s1 := readyToFetch s
  match storeBytes s1 s1.pc.toNat [highByte w, lowByte w] with
  | .ok t => t
  | .error _ => s1

end Sys2Proof.Machine
end

