-- ==== Sys2Proof/Machine/Step.lean ====
section
/-! DEFINITION. The step of the machine, and the placing of a word where the next step fetches it. -/

namespace Sys2Proof.Machine

/-- One `step()` (R89, R91). -/
def step (s : State) : Host.Outcome State Fault Refusal := engineStep s

/-- Host: `s` with the instruction word `w` of `nbits` bits where the very next step fetches it (log 13). -/
def State.withFetchWord (s : State) (nbits w : Nat) : State := placeWord s (BitVec.ofNat 16 (w % 2 ^ nbits))

end Sys2Proof.Machine
end

