-- ==== Sys2Proof/Machine/Assembly.lean ====
section
/-! DEFINITION. The written form of every word (30_encoding.md R93, R94). It has no effect on the machine: no step reads
it. -/

namespace Sys2Proof.Machine

/-- An operand as R93 writes it: a register, a keyword, or a number of a field's width. -/
inductive AsmOperand where
  | reg (x : RegIx)
  | keyI
  | keyDT
  | keyST
  | keyK
  | keyF
  | keyB
  /-- `[I]`, memory at I -/
  | memI
  | nibble (n : BitVec 4)
  | byte (nn : Byte)
  | addr (nnn : BitVec 12)
  | word (w : Word)
deriving DecidableEq, Repr

/-- `MNEMONIC op1, op2, op3` (R93). -/
structure AsmLine where
  mnemonic : String
  operands : List AsmOperand
deriving DecidableEq, Repr

/-- The syntax column of R93, a row for each pattern. `SHR` and `SHL` name VY whether or not it is read, and the offset
jump names V0 whatever register is added. -/
def asmLine : Instr → AsmLine
  | .cls => ⟨"CLS", []⟩
  | .ret => ⟨"RET", []⟩
  | .jp nnn => ⟨"JP", [.addr nnn]⟩
  | .call nnn => ⟨"CALL", [.addr nnn]⟩
  | .seImm x nn => ⟨"SE", [.reg x, .byte nn]⟩
  | .sneImm x nn => ⟨"SNE", [.reg x, .byte nn]⟩
  | .seReg x y => ⟨"SE", [.reg x, .reg y]⟩
  | .ldImm x nn => ⟨"LD", [.reg x, .byte nn]⟩
  | .addImm x nn => ⟨"ADD", [.reg x, .byte nn]⟩
  | .ldReg x y => ⟨"LD", [.reg x, .reg y]⟩
  | .orReg x y => ⟨"OR", [.reg x, .reg y]⟩
  | .andReg x y => ⟨"AND", [.reg x, .reg y]⟩
  | .xorReg x y => ⟨"XOR", [.reg x, .reg y]⟩
  | .addReg x y => ⟨"ADD", [.reg x, .reg y]⟩
  | .sub x y => ⟨"SUB", [.reg x, .reg y]⟩
  | .shr x y => ⟨"SHR", [.reg x, .reg y]⟩
  | .subn x y => ⟨"SUBN", [.reg x, .reg y]⟩
  | .shl x y => ⟨"SHL", [.reg x, .reg y]⟩
  | .sneReg x y => ⟨"SNE", [.reg x, .reg y]⟩
  | .ldI nnn => ⟨"LD", [.keyI, .addr nnn]⟩
  | .jpV0 nnn => ⟨"JP", [.reg 0, .addr nnn]⟩
  | .rnd x nn => ⟨"RND", [.reg x, .byte nn]⟩
  | .drw x y n => ⟨"DRW", [.reg x, .reg y, .nibble n]⟩
  | .skp x => ⟨"SKP", [.reg x]⟩
  | .sknp x => ⟨"SKNP", [.reg x]⟩
  | .ldVxDt x => ⟨"LD", [.reg x, .keyDT]⟩
  | .ldVxK x => ⟨"LD", [.reg x, .keyK]⟩
  | .ldDtVx x => ⟨"LD", [.keyDT, .reg x]⟩
  | .ldStVx x => ⟨"LD", [.keyST, .reg x]⟩
  | .addIVx x => ⟨"ADD", [.keyI, .reg x]⟩
  | .ldFVx x => ⟨"LD", [.keyF, .reg x]⟩
  | .ldBVx x => ⟨"LD", [.keyB, .reg x]⟩
  | .ldMemVx x => ⟨"LD", [.memI, .reg x]⟩
  | .ldVxMem x => ⟨"LD", [.reg x, .memI]⟩

/-- The written form of a word: its instruction's, or `DW 0xhhhh` for an unknown word (R93). -/
def asmWord (c : Config) (op : Word) : AsmLine :=
  match decode c op with
  | .instr i => asmLine i
  | .rejected _ => ⟨"DW", [.word op]⟩

/-- The `k` lowest hexadecimal digits of `n`, in capitals (log 19). -/
def hexDigits : Nat → Nat → String
  | 0, _ => ""
  | k + 1, n => hexDigits k (n / 16) ++
    ["0", "1", "2", "3", "4", "5", "6", "7", "8", "9", "A", "B", "C", "D", "E", "F"].getD (n % 16) ""

/-- An operand's text: "registers `V0`..`VF`", the keywords, "numbers are hexadecimal with `0x`" (R93), with one digit
for every four bits of the field (log 19). -/
def AsmOperand.text : AsmOperand → String
  | .reg x => "V" ++ hexDigits 1 x.toNat
  | .keyI => "I"
  | .keyDT => "DT"
  | .keyST => "ST"
  | .keyK => "K"
  | .keyF => "F"
  | .keyB => "B"
  | .memI => "[I]"
  | .nibble n => "0x" ++ hexDigits 1 n.toNat
  | .byte nn => "0x" ++ hexDigits 2 nn.toNat
  | .addr nnn => "0x" ++ hexDigits 3 nnn.toNat
  | .word w => "0x" ++ hexDigits 4 w.toNat

/-- The operands' texts with `, ` between them. -/
def operandsText : List AsmOperand → String
  | [] => ""
  | [a] => a.text
  | a :: b :: rest => a.text ++ ", " ++ operandsText (b :: rest)

/-- A line's text: "`MNEMONIC op1, op2, op3`" (R93). -/
def AsmLine.text (l : AsmLine) : String :=
  if l.operands = [] then l.mnemonic else l.mnemonic ++ " " ++ operandsText l.operands

end Sys2Proof.Machine
end

