-- ==== Sys2Proof/Machine/HostOps.lean ====
section
/-! DEFINITION. The timer's and the host's operations (60_exceptions.md R268 to R273; 20_memory.md R62) and their
interleaving with steps (R277). -/

namespace Sys2Proof.Machine

/-- `tick()`: DT and ST count down, never below 0, in every engine state (R268). -/
def tick (s : State) : State :=
  { s with dt := if s.dt = 0 then 0 else s.dt - 1, st := if s.st = 0 then 0 else s.st - 1 }

/-- `sound_on = (ST > 0)` (R38, R269). -/
def soundOn (s : State) : Bool := decide (0 < s.st.toNat)

/-- `refreshKeys(k)` (R271). -/
def refreshKeys (k : Vector Bool 16) (s : State) : State := { s with prevKeys := s.keys, keys := k }

/-- `ackRender()` (R273). -/
def ackRender (s : State) : State := writeRenderPending s false

/-- `framebuffer()`: the grid, row by row, each row from column 0 (R272). -/
def framebufferSnapshot (s : State) : List (List Bool) :=
  (List.range fbHeight).map fun y => (List.range fbWidth).map fun x => pixel s.fb x y

/-- What `status()` returns (R270). -/
structure Status where
  run : RunState
  v : Vector Byte 16
  iReg : Word
  pc : Word
  stack : List Word
  dt : Byte
  st : Byte
deriving DecidableEq, Repr

/-- `status()` (R270). -/
def status (s : State) : Status := ⟨s.run, s.v, s.iReg, s.pc, s.stack, s.dt, s.st⟩

/-- `diagnostics()` (R270, R274). -/
def diagnostics (s : State) : List (Word × Word) := s.diag

/-- The numeric code of a halt reason (R261). -/
def haltCode : HaltReason → Nat
  | .stackOverflow => 1
  | .stackUnderflow => 2
  | .unknownOpcode => 3
  | .addressOutOfRange => 4

/-- `reset()`: every component at its reset value; the configuration stays (R290), and no draw is repeated (log 5). -/
def resetMachine (s : State) : State := State.resetWith s.cfg s.draws

/-- The largest image: 4096 − 0x200 bytes (R62). -/
def maxImage : Nat := memSize - progBase

/-- The cells of an image at 0x200 (R62). -/
def imageCells (b : List Byte) : List (Nat × Byte) := (List.range' progBase b.length).zip b

/-- What `loadImage` answers. -/
inductive LoadResult where
  | ok (s : State)
  /-- the image exceeds 3584 bytes; the state is unchanged -/
  | loadError
deriving DecidableEq, Repr

/-- `loadImage(b)`: refused whole if too large, else a reset and the image at 0x200 (R62, R291). -/
def loadImage (b : List Byte) (s : State) : LoadResult :=
  if b.length > maxImage then .loadError else .ok (writeCells (resetMachine s) (imageCells b))

/-- The state after `loadImage`, whatever it answers. -/
def afterLoad (b : List Byte) (s : State) : State :=
  match loadImage b s with
  | .ok t => t
  | .loadError => s

/-- One atomic operation of an agent that may change the state (R277). -/
inductive Event where
  | step
  | tick
  | refreshKeys (k : Vector Bool 16)
  | ackRender
  | loadImage (b : List Byte)
deriving DecidableEq, Repr

/-- The state after one operation. -/
def applyEvent : Event → State → Host.Outcome State Fault Refusal
  | .step, s => Sys2Proof.Machine.step s
  | .tick, s => .next (Sys2Proof.Machine.tick s)
  | .refreshKeys k, s => .next (Sys2Proof.Machine.refreshKeys k s)
  | .ackRender, s => .next (Sys2Proof.Machine.ackRender s)
  | .loadImage b, s => .next (afterLoad b s)

/-- The state after the operations of a schedule, in order (R277). -/
def runEvents : List Event → State → Host.Outcome State Fault Refusal
  | [], s => .next s
  | e :: es, s =>
    match applyEvent e s with
    | .next t => runEvents es t
    | .fault r => .fault r
    | .refused r => .refused r

end Sys2Proof.Machine
end

