-- ==== Sys2Proof/Safety.lean ====
section
/-! DEFINITION. What counts as a safe run, in the terms the statements use: the invariant of the state, and the stopped,
idle and waiting states of 70_reset_and_hazards.md R297. -/

namespace Sys2Proof.Machine

/-- R33: `UnknownOpcode` occurs only when `STRICT_UNKNOWN` is true, `AddressOutOfRange` only in Fatal mode. -/
def haltPossible (c : Config) : RunState → Bool
  | .running => true
  | .waitingForKey _ => true
  | .halted .stackOverflow => true
  | .halted .stackUnderflow => true
  | .halted .unknownOpcode => c.strictUnknown
  | .halted .addressOutOfRange => c.addrMode == .fatal

/-- The invariant of the machine: the configuration is one the spec allows (R290), memory is canonical with every cell
below 4096 (R50; log 10), the call stack is at most 16 deep (R26), and a halt has a reason the configuration allows
(R33). -/
abbrev State.Inv (s : State) : Prop :=
  s.cfg.wf ∧ Memory.wf s.cfg s.mem = true ∧ s.stack.length ≤ stackCap ∧ haltPossible s.cfg s.run = true

/-- A state is stopped when `run = Halted(r)` (R297). -/
def State.stopped (s : State) (r : HaltReason) : Prop := s.run = .halted r

/-- A state is idle when it is `Running` and the word at PC is a jump to itself (R297). -/
def State.idle (s : State) : Prop :=
  s.run = .running ∧ ∃ op nnn, fetch s = .ok op ∧ decode s.cfg op = .instr (.jp nnn) ∧ zext16 nnn = s.pc

/-- The engine has not halted. -/
def State.alive (s : State) : Prop := ∀ r, s.run ≠ .halted r

/-- A safe run: the schedule `es` takes `s` to a state whose engine has not halted. -/
def safeRun (es : List Event) (s : State) : Prop := ∃ t, runEvents es s = .next t ∧ t.alive

/-! ### The shapes of effects that the statements name -/

/-- `t` is `s` after an instruction that writes `b` to V[x] and takes the generic advance: no other register, and nothing
else, is changed (R90, R141). -/
def WritesRegister (s t : State) (x : RegIx) (b : Byte) : Prop :=
  readV t x = b ∧ (∀ r, r ≠ x → readV t r = readV s r) ∧ t = { s with v := t.v, pc := s.pc + 2 }

/-- `t` is `s` after an instruction that writes `b` to V[x], then the flag `f` to VF, and takes the generic advance: when
x is 15 the flag is what is left (R23, R141); no other register, and nothing else, is changed. -/
def WritesRegisterAndFlag (s t : State) (x : RegIx) (b f : Byte) : Prop :=
  readV t 15 = f ∧ (x ≠ 15 → readV t x = b) ∧ (∀ r, r ≠ x → r ≠ 15 → readV t r = readV s r) ∧
    t = { s with v := t.v, pc := s.pc + 2 }

/-- `t` is `s` halted with reason `r`: nothing else is changed (R262). -/
def HaltsWith (s t : State) (r : HaltReason) : Prop := t = { s with run := .halted r }

/-- An access to the `n` addresses from `a` on is in range: always in Wrap mode, and in Fatal mode when it ends below
4096 (R52, R53). -/
def fitsMemory (c : Config) (a n : Nat) : Prop := c.addrMode = .wrap ∨ n = 0 ∨ a + n ≤ memSize

/-- A set bit of the sprite that DXYN draws lands on pixel (px, py): row `r` is the byte at I + r, column `c` its bit
7 − c, and both coordinates wrap (R210, R212). -/
def spriteCovers (s : State) (x y : RegIx) (n : BitVec 4) (px py : Nat) : Prop :=
  ∃ r c, r < n.toNat ∧ c < 8 ∧ (readCell s ((s.iReg.toNat + r) % memSize)).getLsbD (7 - c) = true ∧
    px = ((readV s x).toNat % fbWidth + c) % fbWidth ∧ py = ((readV s y).toNat % fbHeight + r) % fbHeight

/-- The instruction that a running engine in `s` is about to execute. -/
def nextInstr (s : State) (i : Instr) : Prop := ∃ op, fetch s = .ok op ∧ decode s.cfg op = .instr i

/-- The instruction takes the generic advance `PC <- PC + 2` (R90, first item). -/
def genericAdvance : Instr → Bool
  | .cls | .ldImm _ _ | .addImm _ _ | .ldReg _ _ | .orReg _ _ | .andReg _ _ | .xorReg _ _ | .addReg _ _ | .sub _ _
  | .shr _ _ | .subn _ _ | .shl _ _ | .ldI _ | .rnd _ _ | .drw _ _ _ | .ldVxDt _ | .ldVxK _ | .ldDtVx _ | .ldStVx _
  | .addIVx _ | .ldFVx _ | .ldBVx _ | .ldMemVx _ | .ldVxMem _ => true
  | .ret | .jp _ | .call _ | .jpV0 _ | .seImm _ _ | .sneImm _ _ | .seReg _ _ | .sneReg _ _ | .skp _ | .sknp _ => false

/-- The instruction is a skip (R90, second item). -/
def isSkip : Instr → Bool
  | .seImm _ _ | .sneImm _ _ | .seReg _ _ | .sneReg _ _ | .skp _ | .sknp _ => true
  | .cls | .ldImm _ _ | .addImm _ _ | .ldReg _ _ | .orReg _ _ | .andReg _ _ | .xorReg _ _ | .addReg _ _ | .sub _ _
  | .shr _ _ | .subn _ _ | .shl _ _ | .ldI _ | .rnd _ _ | .drw _ _ _ | .ldVxDt _ | .ldVxK _ | .ldDtVx _ | .ldStVx _
  | .addIVx _ | .ldFVx _ | .ldBVx _ | .ldMemVx _ | .ldVxMem _ | .ret | .jp _ | .call _ | .jpV0 _ => false

end Sys2Proof.Machine
end

