-- ==== Sys2Proof/Certificates/Slice0/Obligations.lean ====
section
/-! DEFINITION. The statements about the model, for the provers. Each docstring says which rule of spec/ it formalises.
"Nothing else is changed" is an equation `t = (s with the named fields replaced)`: it covers every other register, field
and byte of memory. -/

open Sys2Proof Sys2Proof.Machine

/-! ### Encoding -/

/-- Words written out from R84's patterns decode to the instructions they stand for (95_test_vectors.md V2 to V12). Most
patterns are the spec's own, "standard CHIP-8 encodings [from general knowledge, not in source]" (R84; log 17). -/
def Obligations.SampleWordsDecode : Prop :=
  decode defaultConfig 0x00E0 = .instr .cls ∧ decode defaultConfig 0x2208 = .instr (.call 0x208) ∧
  decode defaultConfig 0x7A01 = .instr (.addImm 0xA 0x01) ∧ decode defaultConfig 0x812E = .instr (.shl 1 2) ∧
  decode defaultConfig 0xDABF = .instr (.drw 0xA 0xB 0xF) ∧ decode defaultConfig 0xE1A1 = .instr (.sknp 1) ∧
  decode defaultConfig 0xF107 = .instr (.ldVxDt 1) ∧ decode defaultConfig 0xFF65 = .instr (.ldVxMem 0xF) ∧
  decode { defaultConfig with timerOps := false } 0xF107 = .rejected (.timerOpsAbsent 0xF107) ∧
  decode defaultConfig 0x0123 = .rejected (.unknownOpcode 0x0123)

/-- Decode and encode agree: for every well-formed instruction, with every operand at every value, the decoder reads it
back from its word, and from its two bytes in memory order with whatever follows them (R54, R81, R82, R84). -/
def Obligations.DecodeEncodeAgree : Prop :=
  ∀ (c : Config) (i : Instr) (rest : List Byte), i.wellFormed c = true →
    decode c (encode i) = .instr i ∧ decodeBytes c (encodeBytes i ++ rest) = (.instr i, rest)

/-- The other direction: a word that decodes is the encoding of what it decodes to, so no two words mean the same
instruction; and what is decoded is well-formed (R82, R84, R86). -/
def Obligations.DecodedWordIsItsEncoding : Prop :=
  ∀ (c : Config) (op : Word) (i : Instr), decode c op = .instr i → encode i = op ∧ i.wellFormed c = true

/-- R84: "the rows are mutually exclusive, so at most one row matches". -/
def Obligations.OpcodeRowsMutuallyExclusive : Prop :=
  ∀ (op : Word) (r₁ r₂ : OpcodeRow), r₁ ∈ opcodeTable → r₂ ∈ opcodeTable → op &&& r₁.mask = r₁.bits →
    op &&& r₂.mask = r₂.bits → r₁.mnemonic = r₂.mnemonic

/-- R85 and R86: exactly which words are instructions, by class nibble and sub-opcode, with and without `TIMER_OPS`. -/
def Obligations.DecodableWordsByClass : Prop :=
  ∀ (c : Config) (op : Word), (∃ i, decode c op = .instr i) ↔
    (op.toNat / 4096 = 0 ∧ (op = 0x00E0 ∨ op = 0x00EE)) ∨
    (op.toNat / 4096 ∈ [1, 2, 3, 4, 6, 7, 0xA, 0xB, 0xC, 0xD]) ∨
    (op.toNat / 4096 ∈ [5, 9] ∧ op.toNat % 16 = 0) ∨
    (op.toNat / 4096 = 8 ∧ op.toNat % 16 ∈ [0, 1, 2, 3, 4, 5, 6, 7, 0xE]) ∨
    (op.toNat / 4096 = 0xE ∧ op.toNat % 256 ∈ [0x9E, 0xA1]) ∨
    (op.toNat / 4096 = 0xF ∧ op.toNat % 256 ∈ [0x0A, 0x1E, 0x29, 0x33, 0x55, 0x65]) ∨
    (op.toNat / 4096 = 0xF ∧ c.timerOps = true ∧ op.toNat % 256 ∈ [0x07, 0x15, 0x18])

/-- R87: 34 instructions with `TIMER_OPS` and 31 without; with it, 43954 of the 65536 words decode to an instruction and
21582 do not. -/
def Obligations.DecodableWordCount : Prop :=
  ∀ c : Config,
    (c.timerOps = true → (opcodeTable.filter fun r => (r.build r.bits).wellFormed c).length = 34 ∧
      ((List.range 65536).countP fun w => match decode c (BitVec.ofNat 16 w) with
        | .instr _ => true
        | .rejected _ => false) = 43954 ∧
      ((List.range 65536).countP fun w => match decode c (BitVec.ofNat 16 w) with
        | .instr _ => false
        | .rejected _ => true) = 21582) ∧
    (c.timerOps = false → (opcodeTable.filter fun r => (r.build r.bits).wellFormed c).length = 31)

/-! ### The step -/

/-- A step runs the decoded instruction (R80, R89): in `Running`, when both bytes at PC are in range and the word they
make, high byte first, decodes to `i`, the step is `exec i` of that very state, PC included. -/
def Obligations.StepRunsTheDecodedInstruction : Prop :=
  ∀ (s : State) (p q : Nat) (i : Instr), s.run = .running → phys s.cfg s.pc.toNat = some p →
    phys s.cfg (s.pc.toNat + 1) = some q → decode s.cfg (readCell s p ++ readCell s q) = .instr i → step s = exec i s

/-- A word placed where the next step fetches is the one it fetches and runs, whatever the state was (R54, R63, R65). -/
def Obligations.PlacedWordIsFetchedAndRun : Prop :=
  ∀ (s : State) (w : Word) (i : Instr), Memory.wf s.cfg s.mem = true → decode s.cfg w = .instr i →
    step (s.withFetchWord 16 w.toNat) = exec i (s.withFetchWord 16 w.toNat)

/-- R92: an unknown word halts the engine in strict mode, with PC and the log unchanged; else it is logged with the
address it was fetched from and skipped, and nothing else is changed. -/
def Obligations.UnknownWordIsLoggedOrHalts : Prop :=
  ∀ (s : State) (op : Word) (e : DecodeError), s.run = .running → fetch s = .ok op → decode s.cfg op = .rejected e →
    (s.cfg.strictUnknown = true → ∃ t, step s = .next t ∧ HaltsWith s t .unknownOpcode) ∧
    (s.cfg.strictUnknown = false → step s = .next { s with diag := s.diag ++ [(op, s.pc)], pc := s.pc + 2 })

/-- R53, R80, R264 (first item): in `Running`, a fetch address out of range halts before anything else, whatever the bytes
and the other parameters are. -/
def Obligations.FetchOutOfRangeHaltsFirst : Prop :=
  ∀ s : State, s.run = .running → s.cfg.addrMode = .fatal → 4095 ≤ s.pc.toNat →
    ∃ t, step s = .next t ∧ HaltsWith s t .addressOutOfRange

/-- R233, with R35's "just pressed": a waiting step with no just-pressed key changes nothing; otherwise some just-pressed
key's index, zero-extended, goes to V[x] and the engine runs again, PC unchanged. Which one it is when there are several
is a free value (log 4); nothing is said of `draws`, the model's own counter of free values (log 3). -/
def Obligations.WaitingStepPollsTheKeys : Prop :=
  ∀ (s : State) (x : RegIx), s.run = .waitingForKey x →
    ((∀ k : RegIx, ¬(s.keys[k.toNat]'k.isLt = true ∧ s.prevKeys[k.toNat]'k.isLt = false)) → step s = .next s) ∧
    ((∃ k : RegIx, s.keys[k.toNat]'k.isLt = true ∧ s.prevKeys[k.toNat]'k.isLt = false) →
      ∃ (k : RegIx) (t : State), s.keys[k.toNat]'k.isLt = true ∧ s.prevKeys[k.toNat]'k.isLt = false ∧
        step s = .next t ∧ readV t x = BitVec.ofNat 8 k.toNat ∧ (∀ r, r ≠ x → readV t r = readV s r) ∧
        t = { s with v := t.v, run := .running, draws := t.draws })

/-- R263 (with R91): a halted engine stays halted through every schedule that loads no program; its steps change nothing,
and all that such a schedule can change is what ticks, key refreshes and render acknowledgements change. A load that is
accepted makes it run again. -/
def Obligations.HaltLastsUntilAProgramLoad : Prop :=
  ∀ (s : State) (r : HaltReason), s.run = .halted r →
    step s = .next s ∧
    (∀ es : List Event, (∀ b, Event.loadImage b ∉ es) → ∃ t, runEvents es s = .next t ∧
      t = { s with dt := t.dt, st := t.st, keys := t.keys, prevKeys := t.prevKeys, renderPending := t.renderPending }) ∧
    (∀ b t, loadImage b s = .ok t → t.run = .running)

/-- R275: a wait ends only with a just-pressed key. With none, every schedule of steps, ticks and render acknowledgements
leaves the engine waiting and changes nothing but the timers and the render notification. -/
def Obligations.WaitLastsUntilAKeyIsPressed : Prop :=
  ∀ (s : State) (x : RegIx) (es : List Event), s.run = .waitingForKey x →
    (∀ k : RegIx, ¬(s.keys[k.toNat]'k.isLt = true ∧ s.prevKeys[k.toNat]'k.isLt = false)) →
    (∀ e ∈ es, e = .step ∨ e = .tick ∨ e = .ackRender) →
    ∃ t, runEvents es s = .next t ∧ t = { s with dt := t.dt, st := t.st, renderPending := t.renderPending }

/-- Every exception of the machine is a halt, and a halt is a next state (R261, R262): every instruction in every state,
every step and every schedule answers a next state. -/
def Obligations.EverythingAnswersANextState : Prop :=
  (∀ (i : Instr) (s : State), ∃ t, exec i s = .next t) ∧ (∀ s : State, ∃ t, step s = .next t) ∧
    ∀ (es : List Event) (s : State), ∃ t, runEvents es s = .next t

/-- R262: halts are precise. A step of a running engine that ends halted has changed nothing but the engine state: no
register, I, PC, memory, stack, timer, framebuffer, render notification or log. -/
def Obligations.HaltsArePrecise : Prop :=
  ∀ (s t : State) (r : HaltReason), s.run = .running → step s = .next t → t.run = .halted r → HaltsWith s t r

/-- R261 and R264: a step of a running engine halts for exactly the causes of the table, and with the reason of the first
that applies. -/
def Obligations.HaltCauses : Prop :=
  ∀ s t : State, s.run = .running → step s = .next t →
    (t.run = .halted .addressOutOfRange ↔ s.cfg.addrMode = .fatal ∧ (¬ fitsMemory s.cfg s.pc.toNat 2 ∨
      (∃ x y n, nextInstr s (.drw x y n) ∧ ¬ fitsMemory s.cfg s.iReg.toNat n.toNat) ∨
      (∃ x, nextInstr s (.ldBVx x) ∧ ¬ fitsMemory s.cfg s.iReg.toNat 3) ∨
      (∃ x, nextInstr s (.ldMemVx x) ∧ ¬ fitsMemory s.cfg s.iReg.toNat (x.toNat + 1)) ∨
      (∃ x, nextInstr s (.ldVxMem x) ∧ ¬ fitsMemory s.cfg s.iReg.toNat (x.toNat + 1)))) ∧
    (t.run = .halted .unknownOpcode ↔
      s.cfg.strictUnknown = true ∧ ∃ op e, fetch s = .ok op ∧ decode s.cfg op = .rejected e) ∧
    (t.run = .halted .stackOverflow ↔ (∃ nnn, nextInstr s (.call nnn)) ∧ 16 ≤ s.stack.length) ∧
    (t.run = .halted .stackUnderflow ↔ nextInstr s .ret ∧ s.stack = [])

/-- R32: the engine state is `Running` at first; FX0A, and nothing else, takes it from there to `WaitingForKey`; a
just-pressed key, and nothing else, ends the wait; nothing but a program load, which always ends in `Running`, leaves
`Halted`; ticks, key refreshes and render acknowledgements do not change it. -/
def Obligations.RunStateTransitions : Prop :=
  State.reset.run = .running ∧
  (∀ s t : State, step s = .next t →
    (s.run = .running → ∀ x, t.run = .waitingForKey x ↔ nextInstr s (.ldVxK x)) ∧
    (∀ x, s.run = .waitingForKey x → ((∃ k, justPressed s k = true) → t.run = .running) ∧
      ((∀ k, justPressed s k = false) → t.run = .waitingForKey x)) ∧
    (∀ r, s.run = .halted r → t.run = .halted r)) ∧
  (∀ s k, (tick s).run = s.run ∧ (refreshKeys k s).run = s.run ∧ (ackRender s).run = s.run) ∧
  ∀ b s t, loadImage b s = .ok t → t.run = .running

/-- The invariant holds at reset, and in every allowed configuration: canonical memory, a call stack of at most 16
entries, a halt reason the configuration allows (R26, R33, R41, R50, R290). -/
def Obligations.ResetMeetsTheInvariant : Prop :=
  State.reset.Inv ∧ ∀ (c : Config) (d : Nat), c.wf → (State.resetWith c d).Inv

/-- Every step keeps the invariant, from every state that meets it, reachable or not. -/
def Obligations.StepKeepsTheInvariant : Prop :=
  ∀ s t : State, s.Inv → step s = .next t → t.Inv

/-- Every schedule of steps, ticks and host operations, program loads included, keeps the invariant (R277: any order is
possible). -/
def Obligations.SchedulesKeepTheInvariant : Prop :=
  ∀ (es : List Event) (s t : State), s.Inv → runEvents es s = .next t → t.Inv

/-- R6: the configuration does not change during a run, and a program load does not change it, whatever the schedule. -/
def Obligations.ConfigurationNeverChanges : Prop :=
  ∀ (es : List Event) (s t : State), runEvents es s = .next t → t.cfg = s.cfg

/-- R297: an idle state, `Running` at a jump to itself, is left unchanged by every step, and by every schedule of steps. -/
def Obligations.IdleStateStaysPut : Prop :=
  ∀ s : State, s.idle → ∀ n : Nat, runEvents (List.replicate n .step) s = .next s

/-- R23: VF changes only by the seven flag writers or as the named destination of another instruction. -/
def Obligations.VfChangesOnlyAsFlagOrDestination : Prop :=
  ∀ (i : Instr) (s t : State), exec i s = .next t → readV t 15 ≠ readV s 15 →
    (∃ x y, i = .addReg x y ∨ i = .sub x y ∨ i = .shr x y ∨ i = .subn x y ∨ i = .shl x y) ∨
    (∃ x y n, i = .drw x y n) ∨ (∃ x, i = .addIVx x ∧ s.cfg.addISetsVf = true) ∨
    (∃ nn, i = .ldImm 15 nn ∨ i = .addImm 15 nn ∨ i = .rnd 15 nn) ∨
    (∃ y, i = .ldReg 15 y ∨ i = .orReg 15 y ∨ i = .andReg 15 y ∨ i = .xorReg 15 y) ∨
    i = .ldVxDt 15 ∨ i = .ldVxMem 15

/-- R40, R24, R31, R34, R36, R51: which instructions may change each component. Keys, the log and the configuration no
instruction changes; the framebuffer and the render notification only 00E0 and DXYN; memory only FX33 and FX55; the stack
only 2NNN and 00EE; DT only FX15, ST only FX18; I only ANNN, FX1E, FX29 and, with the quirk, FX55 and FX65. -/
def Obligations.ComponentsChangeOnlyByTheirWriters : Prop :=
  ∀ (i : Instr) (s t : State), exec i s = .next t →
    (t.keys = s.keys ∧ t.prevKeys = s.prevKeys ∧ t.diag = s.diag ∧ t.cfg = s.cfg) ∧
    (t.fb ≠ s.fb ∨ t.renderPending ≠ s.renderPending → i = .cls ∨ ∃ x y n, i = .drw x y n) ∧
    (t.mem ≠ s.mem → ∃ x, i = .ldBVx x ∨ i = .ldMemVx x) ∧
    (t.stack ≠ s.stack → i = .ret ∨ ∃ nnn, i = .call nnn) ∧
    (t.dt ≠ s.dt → ∃ x, i = .ldDtVx x) ∧ (t.st ≠ s.st → ∃ x, i = .ldStVx x) ∧
    (t.iReg ≠ s.iReg → (∃ nnn, i = .ldI nnn) ∨ ∃ x, i = .addIVx x ∨ i = .ldFVx x ∨
      (s.cfg.loadStoreIncrementsI = true ∧ (i = .ldMemVx x ∨ i = .ldVxMem x)))

/-- R90: an instruction that does not halt writes PC once, by its class: the generic advance; the popped address, `nnn`,
or `nnn` plus the offset register; or, for a skip, PC + 4 or PC + 2. -/
def Obligations.PcAdvanceByClass : Prop :=
  ∀ (i : Instr) (s t : State), exec i s = .next t → (∀ r, t.run ≠ .halted r) →
    (genericAdvance i = true → t.pc = s.pc + 2) ∧
    (isSkip i = true → t.pc = s.pc + 4 ∨ t.pc = s.pc + 2) ∧
    (i = .ret → s.stack = t.stack ++ [t.pc]) ∧
    (∀ nnn, i = .jp nnn ∨ i = .call nnn → t.pc.toNat = nnn.toNat) ∧
    (∀ nnn, i = .jpV0 nnn → t.pc.toNat = nnn.toNat + (jumpOffset s nnn).toNat)

/-! ### Control transfer -/

/-- R110: return pops the top of the call stack into PC, or halts with `StackUnderflow` when it is empty. -/
def Obligations.ReturnPopsTheStack : Prop :=
  ∀ s : State,
    (∀ ws w, s.stack = ws ++ [w] → exec .ret s = .next { s with stack := ws, pc := w }) ∧
    (s.stack = [] → ∃ t, exec .ret s = .next t ∧ HaltsWith s t .stackUnderflow)

/-- R111: a jump sets PC to the zero-extended target and changes nothing else; in Fatal mode the target 0xFFF halts at
the next fetch, and no other target of a jump does. -/
def Obligations.JumpSetsPc : Prop :=
  ∀ (nnn : BitVec 12) (s : State), ∃ t, exec (.jp nnn) s = .next t ∧ t.pc.toNat = nnn.toNat ∧ t = { s with pc := t.pc } ∧
    (fetch t = .error .addressOutOfRange ↔ s.cfg.addrMode = .fatal ∧ nnn = 0xFFF)

/-- R112: a call pushes the address after itself and jumps, or halts with `StackOverflow` when 16 entries are on the
stack. -/
def Obligations.CallPushesTheReturnAddress : Prop :=
  ∀ (nnn : BitVec 12) (s : State),
    (s.stack.length < 16 → ∃ t, exec (.call nnn) s = .next t ∧ t.stack = s.stack ++ [s.pc + 2] ∧ t.pc.toNat = nnn.toNat ∧
      t = { s with stack := t.stack, pc := t.pc }) ∧
    (s.stack.length = 16 → ∃ t, exec (.call nnn) s = .next t ∧ HaltsWith s t .stackOverflow)

/-- 95_test_vectors.md S5, 90_conflicts.md C2: a call followed at once by a return leaves PC at the call's address plus 2
and everything else, the stack included, as it was before the call. -/
def Obligations.CallThenReturn : Prop :=
  ∀ (nnn : BitVec 12) (s : State), s.stack.length < 16 →
    ∃ t, exec (.call nnn) s = .next t ∧ exec .ret t = .next { s with pc := s.pc + 2 }

/-- R113 to R116: the four register skips compare, advance PC by 4 or by 2, and change nothing else. -/
def Obligations.RegisterSkips : Prop :=
  ∀ (x y : RegIx) (nn : Byte) (s : State),
    exec (.seImm x nn) s = .next { s with pc := if readV s x = nn then s.pc + 4 else s.pc + 2 } ∧
    exec (.sneImm x nn) s = .next { s with pc := if readV s x = nn then s.pc + 2 else s.pc + 4 } ∧
    exec (.seReg x y) s = .next { s with pc := if readV s x = readV s y then s.pc + 4 else s.pc + 2 } ∧
    exec (.sneReg x y) s = .next { s with pc := if readV s x = readV s y then s.pc + 2 else s.pc + 4 }

/-- R117: the offset jump adds V0, or with the quirk the register named by the high nibble of `nnn`, to the whole of
`nnn`, unmasked, and changes nothing but PC. -/
def Obligations.OffsetJumpTarget : Prop :=
  ∀ (nnn : BitVec 12) (s : State), ∃ t, exec (.jpV0 nnn) s = .next t ∧ t = { s with pc := t.pc } ∧
    (s.cfg.jumpOffsetUsesVx = false → t.pc.toNat = nnn.toNat + (readV s 0).toNat) ∧
    (s.cfg.jumpOffsetUsesVx = true → t.pc.toNat = nnn.toNat + (readV s (BitVec.ofNat 4 (nnn.toNat / 256))).toNat)

/-! ### Register arithmetic and logic -/

/-- R142 and R143: load immediate, and add immediate modulo 256 with no flag. -/
def Obligations.ImmediateForms : Prop :=
  ∀ (x : RegIx) (nn : Byte) (s : State),
    (∃ t, exec (.ldImm x nn) s = .next t ∧ WritesRegister s t x nn) ∧
    (∃ t, exec (.addImm x nn) s = .next t ∧ WritesRegister s t x (readV s x + nn))

/-- R144 to R147: copy, OR, AND and XOR write the destination and no flag. -/
def Obligations.CopyAndLogicForms : Prop :=
  ∀ (x y : RegIx) (s : State),
    (∃ t, exec (.ldReg x y) s = .next t ∧ WritesRegister s t x (readV s y)) ∧
    (∃ t, exec (.orReg x y) s = .next t ∧ WritesRegister s t x (readV s x ||| readV s y)) ∧
    (∃ t, exec (.andReg x y) s = .next t ∧ WritesRegister s t x (readV s x &&& readV s y)) ∧
    (∃ t, exec (.xorReg x y) s = .next t ∧ WritesRegister s t x (readV s x ^^^ readV s y))

/-- R148: the sum modulo 256, then VF = 1 exactly when the sum exceeds 255. -/
def Obligations.AddRegistersSumAndCarry : Prop :=
  ∀ (x y : RegIx) (s : State), ∃ t, exec (.addReg x y) s = .next t ∧
    WritesRegisterAndFlag s t x (readV s x + readV s y) (if 255 < (readV s x).toNat + (readV s y).toNat then 1 else 0)

/-- R149 and R151: the difference modulo 256, then VF = 1 exactly when there is no borrow. -/
def Obligations.SubtractRegistersDifferenceAndBorrow : Prop :=
  ∀ (x y : RegIx) (s : State),
    (∃ t, exec (.sub x y) s = .next t ∧
      WritesRegisterAndFlag s t x (readV s x - readV s y) (if (readV s y).toNat ≤ (readV s x).toNat then 1 else 0)) ∧
    (∃ t, exec (.subn x y) s = .next t ∧
      WritesRegisterAndFlag s t x (readV s y - readV s x) (if (readV s x).toNat ≤ (readV s y).toNat then 1 else 0))

/-- R150 and R152: logical shifts by one of VX, or of VY with the quirk, then VF = the bit shifted out. -/
def Obligations.ShiftsAndTheBitShiftedOut : Prop :=
  ∀ (x y : RegIx) (s : State) (v : Byte), v = (if s.cfg.shiftUsesVy then readV s y else readV s x) →
    (∃ t, exec (.shr x y) s = .next t ∧ WritesRegisterAndFlag s t x (v >>> 1) (v &&& 1)) ∧
    (∃ t, exec (.shl x y) s = .next t ∧ WritesRegisterAndFlag s t x (v <<< 1) (v >>> 7))

/-- R153: the destination is the fresh draw masked by `nn`, whatever the draw is; the draw is used up, and nothing else
is changed. `Config.rngDraw` is a free value (log 3). -/
def Obligations.RandomByteIsMasked : Prop :=
  ∀ (x : RegIx) (nn : Byte) (s : State), ∃ t, exec (.rnd x nn) s = .next t ∧
    readV t x = Config.rngDraw s.draws &&& nn ∧ (∀ r, r ≠ x → readV t r = readV s r) ∧
    t = { s with v := t.v, pc := s.pc + 2, draws := s.draws + 1 }

/-! ### Address register and memory -/

/-- R181 and R183: the two ways to set I. FX29 uses the low nibble of VX. -/
def Obligations.SetIndexRegister : Prop :=
  ∀ (nnn : BitVec 12) (x : RegIx) (s : State),
    (∃ t, exec (.ldI nnn) s = .next t ∧ t.iReg.toNat = nnn.toNat ∧ t = { s with iReg := t.iReg, pc := s.pc + 2 }) ∧
    (∃ t, exec (.ldFVx x) s = .next t ∧
      t.iReg.toNat = (s.cfg.fontBase + 5 * ((readV s x).toNat % 16)) % 65536 ∧
      t = { s with iReg := t.iReg, pc := s.pc + 2 })

/-- R182: I wraps at 16 bits, and VF is written only with the quirk, from the old VX. The quirk's threshold 0x0FFF is the
spec's own ("the threshold 0x0FFF is not in the source", R182; log 17). -/
def Obligations.AddToIndexRegister : Prop :=
  ∀ (x : RegIx) (s : State), ∃ t, exec (.addIVx x) s = .next t ∧
    t.iReg.toNat = (s.iReg.toNat + (readV s x).toNat) % 65536 ∧
    (s.cfg.addISetsVf = false → t.v = s.v) ∧
    (s.cfg.addISetsVf = true → (∀ r, r ≠ 15 → readV t r = readV s r) ∧
      readV t 15 = if 0x0FFF < s.iReg.toNat + (readV s x).toNat then 1 else 0) ∧
    t = { s with iReg := t.iReg, v := t.v, pc := s.pc + 2 }

/-- R184: the three decimal digits of VX go to the cells of I, I + 1, I + 2, every other cell keeps its byte and nothing
else is changed; in Fatal mode an address out of range halts with nothing written. -/
def Obligations.BcdDigitsAreStored : Prop :=
  ∀ (x : RegIx) (s : State), Memory.wf s.cfg s.mem = true →
    (fitsMemory s.cfg s.iReg.toNat 3 → ∃ ps t, physRange s.cfg s.iReg.toNat 3 = some ps ∧ exec (.ldBVx x) s = .next t ∧
      ps.map (fun p => (readCell t p).toNat) =
        [(readV s x).toNat / 100, (readV s x).toNat / 10 % 10, (readV s x).toNat % 10] ∧
      (∀ p, p ∉ ps → readCell t p = readCell s p) ∧ t = { s with mem := t.mem, pc := s.pc + 2 }) ∧
    (¬ fitsMemory s.cfg s.iReg.toNat 3 → ∃ t, exec (.ldBVx x) s = .next t ∧ HaltsWith s t .addressOutOfRange)

/-- R185: V0 to VX go to the cells of I to I + x, every other cell keeps its byte; I is advanced by x + 1 only with the
quirk, and nothing else is changed; in Fatal mode an address out of range halts with nothing written. -/
def Obligations.RegisterDumpStoresV0ToVx : Prop :=
  ∀ (x : RegIx) (s : State), Memory.wf s.cfg s.mem = true →
    (fitsMemory s.cfg s.iReg.toNat (x.toNat + 1) → ∃ ps t, physRange s.cfg s.iReg.toNat (x.toNat + 1) = some ps ∧
      exec (.ldMemVx x) s = .next t ∧
      (∀ k : Nat, k ≤ x.toNat → ∃ p, ps[k]? = some p ∧ readCell t p = readV s (BitVec.ofNat 4 k)) ∧
      (∀ p, p ∉ ps → readCell t p = readCell s p) ∧
      t.iReg = (if s.cfg.loadStoreIncrementsI then s.iReg + BitVec.ofNat 16 (x.toNat + 1) else s.iReg) ∧
      t = { s with mem := t.mem, iReg := t.iReg, pc := s.pc + 2 }) ∧
    (¬ fitsMemory s.cfg s.iReg.toNat (x.toNat + 1) → ∃ t, exec (.ldMemVx x) s = .next t ∧ HaltsWith s t .addressOutOfRange)

/-- R186: V0 to VX receive the bytes at I to I + x, the other registers keep theirs; I is advanced by x + 1 only with the
quirk, and nothing else, memory included, is changed; in Fatal mode an address out of range halts with nothing loaded. -/
def Obligations.RegisterLoadReadsV0ToVx : Prop :=
  ∀ (x : RegIx) (s : State),
    (fitsMemory s.cfg s.iReg.toNat (x.toNat + 1) → ∃ t, exec (.ldVxMem x) s = .next t ∧
      (∀ r : RegIx, readV t r =
        if r.toNat ≤ x.toNat then readCell s ((s.iReg.toNat + r.toNat) % 4096) else readV s r) ∧
      t.iReg = (if s.cfg.loadStoreIncrementsI then s.iReg + BitVec.ofNat 16 (x.toNat + 1) else s.iReg) ∧
      t = { s with v := t.v, iReg := t.iReg, pc := s.pc + 2 }) ∧
    (¬ fitsMemory s.cfg s.iReg.toNat (x.toNat + 1) → ∃ t, exec (.ldVxMem x) s = .next t ∧ HaltsWith s t .addressOutOfRange)

/-- R185 with R186: a dump is undone by a load. After a dump, whatever is then put in the registers, a load at the dump's
I brings back V0 to VX. -/
def Obligations.DumpThenLoadRestoresRegisters : Prop :=
  ∀ (x : RegIx) (s t : State) (w : Vector Byte 16), Memory.wf s.cfg s.mem = true →
    fitsMemory s.cfg s.iReg.toNat (x.toNat + 1) → exec (.ldMemVx x) s = .next t →
    ∃ u, exec (.ldVxMem x) { t with v := w, iReg := s.iReg } = .next u ∧
      ∀ r : RegIx, r.toNat ≤ x.toNat → readV u r = readV s r

/-- R65: a dump over the next instruction is what the next step fetches: the word of V0 and V1. -/
def Obligations.StoreIsSeenByTheNextFetch : Prop :=
  ∀ (x : RegIx) (s t : State), Memory.wf s.cfg s.mem = true → 1 ≤ x.toNat → s.iReg = s.pc + 2 →
    fitsMemory s.cfg s.iReg.toNat (x.toNat + 1) → exec (.ldMemVx x) s = .next t →
    fetch t = .ok (readV s 0 ++ readV s 1)

/-- Memories in canonical form that read alike in every cell are equal data (log 10; R50). -/
def Obligations.MemoriesThatReadAlikeAreEqual : Prop :=
  ∀ (c : Config) (m₁ m₂ : Memory), Memory.wf c m₁ = true → Memory.wf c m₂ = true →
    (∀ p, p < 4096 → Memory.read c m₁ p = Memory.read c m₂ p) → m₁ = m₂

/-! ### Framebuffer -/

/-- R211: clear screen turns every pixel off, raises the render notification even if the grid was clear, and changes
nothing else. -/
def Obligations.ClearScreenClearsEveryPixel : Prop :=
  ∀ s : State, ∃ t, exec .cls s = .next t ∧ (∀ x y, pixel t.fb x y = false) ∧
    t = { s with fb := t.fb, renderPending := true, pc := s.pc + 2 }

/-- R212, R210, R213 (c): each pixel is flipped exactly when a set bit of the sprite lands on it; VF is 1 when a set bit
lands on a pixel that was on, else 0, and is written last; the render notification is raised; nothing else is changed. In
Fatal mode a sprite row out of range halts with nothing drawn. That bit 7 is the leftmost pixel is the spec's own ("from
general knowledge, not in source", R210; log 17). -/
def Obligations.DrawFlipsCoveredPixels : Prop :=
  ∀ (x y : RegIx) (n : BitVec 4) (s : State),
    (fitsMemory s.cfg s.iReg.toNat n.toNat → ∃ t, exec (.drw x y n) s = .next t ∧
      (∀ px py, px < 64 → py < 32 →
        (spriteCovers s x y n px py → pixel t.fb px py = !pixel s.fb px py) ∧
        (¬ spriteCovers s x y n px py → pixel t.fb px py = pixel s.fb px py)) ∧
      ((∃ px py, spriteCovers s x y n px py ∧ pixel s.fb px py = true) → readV t 15 = 1) ∧
      ((¬ ∃ px py, spriteCovers s x y n px py ∧ pixel s.fb px py = true) → readV t 15 = 0) ∧
      (∀ r, r ≠ 15 → readV t r = readV s r) ∧
      t = { s with fb := t.fb, v := t.v, renderPending := true, pc := s.pc + 2 }) ∧
    (¬ fitsMemory s.cfg s.iReg.toNat n.toNat → ∃ t, exec (.drw x y n) s = .next t ∧ HaltsWith s t .addressOutOfRange)

/-- R213 (b): a second identical draw, at the same coordinates, restores the framebuffer, and reports collision exactly
when the first draw turned some pixel on. -/
def Obligations.SecondDrawRestoresTheFramebuffer : Prop :=
  ∀ (x y : RegIx) (n : BitVec 4) (s t : State), fitsMemory s.cfg s.iReg.toNat n.toNat → exec (.drw x y n) s = .next t →
    readV t x = readV s x → readV t y = readV s y →
    ∃ u, exec (.drw x y n) t = .next u ∧ u.fb = s.fb ∧
      ((∃ px py, px < 64 ∧ py < 32 ∧ pixel s.fb px py = false ∧ pixel t.fb px py = true) → readV u 15 = 1) ∧
      ((¬ ∃ px py, px < 64 ∧ py < 32 ∧ pixel s.fb px py = false ∧ pixel t.fb px py = true) → readV u 15 = 0)

/-- R213 (a): no pixel is toggled twice by one draw, hence the result does not depend on the order in which the pixels
are visited. -/
def Obligations.DrawOrderDoesNotMatter : Prop :=
  ∀ (x0 y0 : Nat) (rows : List Byte), rows.length ≤ 15 → (spritePixels x0 y0 rows).Nodup ∧
    ∀ (f : Framebuffer) (ps : List (Nat × Nat)), ps.Perm (spritePixels x0 y0 rows) →
      ps.foldl drawPixel (f, false) = drawSprite f x0 y0 rows

/-! ### Keys and timers -/

/-- R230 and R231: the key skips test the current snapshot of the key named by VX's low nibble and change nothing but
PC. -/
def Obligations.KeySkips : Prop :=
  ∀ (x : RegIx) (s : State) (down : Bool),
    down = s.keys[(readV s x).toNat % 16]'(Nat.mod_lt _ (Nat.succ_pos 15)) →
    exec (.skp x) s = .next { s with pc := if down then s.pc + 4 else s.pc + 2 } ∧
    exec (.sknp x) s = .next { s with pc := if down then s.pc + 2 else s.pc + 4 }

/-- R232: FX0A enters the wait with its register index and advances PC; no register, VX included, is written. -/
def Obligations.KeyWaitEntersWaiting : Prop :=
  ∀ (x : RegIx) (s : State), ∃ t, exec (.ldVxK x) s = .next t ∧
    t = { s with run := .waitingForKey x, pc := s.pc + 2 } ∧ ∀ r, readV t r = readV s r

/-- R234 to R236: the timer instructions, which exist when `TIMER_OPS` is true; without it their words are unknown. They
are the spec's own ("standard CHIP-8 [from general knowledge, not in source]", 44_input_timer.md; log 17). After
FX18 the sound signal is on exactly when VX is above 0. The three `exec` clauses hold without `TIMER_OPS` too: that is the
model's choice (log 12), since no step executes these instructions there; for the machine they say something with
`TIMER_OPS` only. -/
def Obligations.TimerInstructions : Prop :=
  ∀ (x : RegIx) (s : State) (c : Config),
    (∃ t, exec (.ldVxDt x) s = .next t ∧ WritesRegister s t x s.dt) ∧
    exec (.ldDtVx x) s = .next { s with dt := readV s x, pc := s.pc + 2 } ∧
    (∃ t, exec (.ldStVx x) s = .next t ∧ t = { s with st := readV s x, pc := s.pc + 2 } ∧
      (soundOn t = true ↔ 0 < (readV s x).toNat)) ∧
    (∀ i, i = .ldVxDt x ∨ i = .ldDtVx x ∨ i = .ldStVx x →
      (c.timerOps = true → decode c (encode i) = .instr i) ∧
      (c.timerOps = false → decode c (encode i) = .rejected (.timerOpsAbsent (encode i))))

/-! ### The timer's and the host's operations -/

/-- R268 (95_test_vectors.md S9): `n` ticks take `n` from each timer, never below 0, in every engine state, and change
nothing else. -/
def Obligations.TicksCountDownAndClamp : Prop :=
  ∀ (n : Nat) (s : State), ∃ t, runEvents (List.replicate n .tick) s = .next t ∧
    t.dt.toNat = s.dt.toNat - n ∧ t.st.toNat = s.st.toNat - n ∧ t = { s with dt := t.dt, st := t.st }

/-- R269: apart from a program load, the sound signal changes only when FX18 writes ST or a tick takes ST from 1 to 0. -/
def Obligations.SoundChangesOnlyByFx18OrTick : Prop :=
  ∀ (e : Event) (s t : State), (∀ b, e ≠ .loadImage b) → applyEvent e s = .next t → soundOn t ≠ soundOn s →
    (e = .tick ∧ s.st = 1 ∧ t.st = 0) ∨ (e = .step ∧ s.run = .running ∧ ∃ x, nextInstr s (.ldStVx x))

/-- R271, R273 and R35: a key refresh moves the snapshot into the previous one, so that a key held over two refreshes is
not just pressed (95_test_vectors.md V130, by R35's "just pressed"); a render acknowledgement clears the notification; neither changes anything else. -/
def Obligations.RefreshAndAcknowledge : Prop :=
  ∀ (k : Vector Bool 16) (s : State),
    refreshKeys k s = { s with prevKeys := s.keys, keys := k } ∧
    ackRender s = { s with renderPending := false } ∧
    ∀ j, justPressed (refreshKeys k (refreshKeys k s)) j = false

/-- R62: an image of more than 3584 bytes is refused whole, with no state change; any other resets the machine, keeping
the configuration, and puts its bytes at 0x200, every other cell at its reset value. (Nothing is said of the counter of
free values, the model's own: log 5.) -/
def Obligations.LoadImageIsAllOrNothing : Prop :=
  ∀ (b : List Byte) (s : State),
    (3584 < b.length → loadImage b s = .loadError ∧ applyEvent (.loadImage b) s = .next s) ∧
    (b.length ≤ 3584 → ∃ t, loadImage b s = .ok t ∧ applyEvent (.loadImage b) s = .next t ∧
      (∀ k : Nat, ∀ h : k < b.length, readCell t (0x200 + k) = b[k]) ∧
      (∀ p, p < 0x200 ∨ 0x200 + b.length ≤ p → readCell t p = resetByte s.cfg p) ∧
      t = { State.resetWith s.cfg t.draws with mem := t.mem })

/-- R41 and R290 in the default configuration: registers, timers, stack and framebuffer zero, PC at 0x200, running, no key
down, an empty log, no render due; memory zero but for the font, of which the glyphs of 0 and F are checked byte by
byte. The font's bytes and the values of keys, log and notification are the spec's own (R59, R41; log 17). -/
def Obligations.ResetValues : Prop :=
  (∀ r, readV State.reset r = 0) ∧ State.reset.iReg = 0 ∧ State.reset.pc = 0x200 ∧ State.reset.stack = [] ∧
  State.reset.dt = 0 ∧ State.reset.st = 0 ∧ State.reset.run = .running ∧
  (∀ x y, pixel State.reset.fb x y = false) ∧
  (∀ k : RegIx, State.reset.keys[k.toNat]'k.isLt = false ∧ State.reset.prevKeys[k.toNat]'k.isLt = false) ∧
  State.reset.diag = [] ∧ State.reset.renderPending = false ∧
  (∀ p, p < 0x050 ∨ 0x0A0 ≤ p → readCell State.reset p = 0) ∧
  (List.range' 0x050 5).map (readCell State.reset) = [0xF0, 0x90, 0x90, 0x90, 0xF0] ∧
  (List.range' 0x09B 5).map (readCell State.reset) = [0xF0, 0x80, 0xF0, 0x80, 0x80]

/-- R293 (95_test_vectors.md V145): after an empty image the first step fetches the word 0x0000 at 0x200, which is
unknown: logged and skipped, or a halt in strict mode. -/
def Obligations.FirstStepAfterAnEmptyImage : Prop :=
  ∀ s : State, s.cfg.wf → ∃ t, loadImage [] s = .ok t ∧
    (s.cfg.strictUnknown = false → step t = .next { t with diag := [(0x0000, 0x200)], pc := 0x202 }) ∧
    (s.cfg.strictUnknown = true → ∃ u, step t = .next u ∧ HaltsWith t u .unknownOpcode)

/-! ### Written forms -/

/-- R93 and R94: the word of an instruction is written as the instruction is, and no two words are written alike, so that
every form is one machine word. (The mnemonics are the spec's own, "from general knowledge, not in source", R93; log 17.) -/
def Obligations.WrittenFormsNameOneWord : Prop :=
  ∀ c : Config, (∀ i : Instr, i.wellFormed c = true → asmWord c (encode i) = asmLine i) ∧
    ∀ op op' : Word, asmWord c op = asmWord c op' → op = op'

/-- R93, its last paragraph: `SHR` and `SHL` name VY, but "it is read only when `SHIFT_USES_VY` is true"; then VX is not
read. `JP V0, nnn` adds V0, or V[nnn[11:8]] "when `JUMP_OFFSET_USES_VX` is true", and reads no other register. -/
def Obligations.NamedRegistersReadUnderTheQuirks : Prop :=
  (∀ (x y y' : RegIx) (s : State), s.cfg.shiftUsesVy = false →
    exec (.shr x y) s = exec (.shr x y') s ∧ exec (.shl x y) s = exec (.shl x y') s) ∧
  (∀ (x y : RegIx) (b : Byte) (s : State), s.cfg.shiftUsesVy = true → x ≠ y →
    exec (.shr x y) (writeV s x b) = exec (.shr x y) s ∧ exec (.shl x y) (writeV s x b) = exec (.shl x y) s) ∧
  ∀ (nnn : BitVec 12) (r : RegIx) (b : Byte) (s : State),
    r ≠ (if s.cfg.jumpOffsetUsesVx then BitVec.ofNat 4 (nnn.toNat / 256) else 0) →
    ∃ t u, exec (.jpV0 nnn) s = .next t ∧ exec (.jpV0 nnn) (writeV s r b) = .next u ∧ u.pc = t.pc
end

