-- ==== Sys2Proof/Laws/Assembly.lean ====
section
/-! SUPPORT. Written forms of instructions (R93, R94). -/

namespace Sys2Proof.Machine

/-- No two instructions are written alike. -/
theorem asmLine_inj {i j : Instr} (h : asmLine i = asmLine j) : i = j := by
  cases i <;> cases j <;> simp_all [asmLine]

/-- No instruction is written as an unknown word is. -/
theorem asmLine_ne_dw (i : Instr) (w : Word) : asmLine i ≠ ⟨"DW", [.word w]⟩ := by cases i <;> simp [asmLine]

end Sys2Proof.Machine
end

