-- ==== Sys2Proof/Laws/Decode.lean ====
section
/-! SUPPORT. The fields of a formatted word are the fields it was written from (R82), and what the decoder's answer says
about the row it came from (R84). -/

namespace Sys2Proof

/-! ### Bits of the formats -/

theorem getLsbD_formatA (c : BitVec 4) (nnn : BitVec 12) (i : Nat) :
    (formatA c nnn).getLsbD i = if i < 12 then nnn.getLsbD i else c.getLsbD (i - 12) :=
  BitVec.getLsbD_append

theorem getLsbD_formatXNN (c : BitVec 4) (x : RegIx) (nn : Byte) (i : Nat) :
    (formatXNN c x nn).getLsbD i =
      if i < 12 then (if i < 8 then nn.getLsbD i else x.getLsbD (i - 8)) else c.getLsbD (i - 12) := by
  rw [← show (x ++ nn : BitVec 12).getLsbD i = _ from BitVec.getLsbD_append]
  exact getLsbD_formatA c (x ++ nn) i

theorem getLsbD_formatXYN (c : BitVec 4) (x y : RegIx) (n : BitVec 4) (i : Nat) :
    (formatXYN c x y n).getLsbD i =
      if i < 12 then (if i < 8 then (if i < 4 then n.getLsbD i else y.getLsbD (i - 4)) else x.getLsbD (i - 8))
      else c.getLsbD (i - 12) := by
  rw [← show (y ++ n : Byte).getLsbD i = _ from BitVec.getLsbD_append]
  exact getLsbD_formatXNN c x (y ++ n) i

/-! ### Fields of the formats -/

@[simp] theorem fieldNNN_formatA (c : BitVec 4) (nnn : BitVec 12) : fieldNNN (formatA c nnn) = nnn := by
  apply BitVec.eq_of_getLsbD_eq
  intro i hi
  simp [fieldNNN, getLsbD_formatA, hi]

@[simp] theorem fieldX_formatXNN (c : BitVec 4) (x : RegIx) (nn : Byte) : fieldX (formatXNN c x nn) = x := by
  apply BitVec.eq_of_getLsbD_eq
  intro i hi
  simp [fieldX, getLsbD_formatXNN, hi, show 8 + i < 12 by omega]

@[simp] theorem fieldNN_formatXNN (c : BitVec 4) (x : RegIx) (nn : Byte) : fieldNN (formatXNN c x nn) = nn := by
  apply BitVec.eq_of_getLsbD_eq
  intro i hi
  simp [fieldNN, getLsbD_formatXNN, hi, show i < 12 by omega]

@[simp] theorem fieldX_formatXYN (c : BitVec 4) (x y : RegIx) (n : BitVec 4) : fieldX (formatXYN c x y n) = x :=
  fieldX_formatXNN c x (y ++ n)

@[simp] theorem fieldY_formatXYN (c : BitVec 4) (x y : RegIx) (n : BitVec 4) : fieldY (formatXYN c x y n) = y := by
  apply BitVec.eq_of_getLsbD_eq
  intro i hi
  simp [fieldY, getLsbD_formatXYN, hi, show 4 + i < 12 by omega, show 4 + i < 8 by omega]

@[simp] theorem fieldN_formatXYN (c : BitVec 4) (x y : RegIx) (n : BitVec 4) : fieldN (formatXYN c x y n) = n := by
  apply BitVec.eq_of_getLsbD_eq
  intro i hi
  simp [fieldN, getLsbD_formatXYN, hi, show i < 12 by omega, show i < 8 by omega]

/-! ### Formats under the masks of R84 -/

theorem nibbleOnes : ∀ j < 4, BitVec.getLsbD (0xF : BitVec 4) j = true := by decide
theorem byteOnes : ∀ j < 8, BitVec.getLsbD (0xFF : Byte) j = true := by decide

/-- Under the class mask only the class nibble is left. -/
theorem formatA_mask (c : BitVec 4) (nnn : BitVec 12) : formatA c nnn &&& 0xF000 = formatA c 0 := by
  have h : formatA 0xF 0 = 0xF000 := by decide
  apply BitVec.eq_of_getLsbD_eq
  intro i hi
  rw [← h, BitVec.getLsbD_and, getLsbD_formatA, getLsbD_formatA, getLsbD_formatA]
  split
  · simp
  · rw [nibbleOnes _ (by omega), Bool.and_true]

/-- Under the class and low-byte mask the class and the low byte are left. -/
theorem formatXNN_mask (c : BitVec 4) (x : RegIx) (nn : Byte) : formatXNN c x nn &&& 0xF0FF = formatXNN c 0 nn := by
  have h : formatXNN 0xF 0 0xFF = 0xF0FF := by decide
  apply BitVec.eq_of_getLsbD_eq
  intro i hi
  rw [← h, BitVec.getLsbD_and, getLsbD_formatXNN, getLsbD_formatXNN, getLsbD_formatXNN]
  split
  · split
    · rw [byteOnes _ (by assumption), Bool.and_true]
    · simp
  · rw [nibbleOnes _ (by omega), Bool.and_true]

/-- Under the class and low-nibble mask the class and the low nibble are left. -/
theorem formatXYN_mask (c : BitVec 4) (x y : RegIx) (n : BitVec 4) :
    formatXYN c x y n &&& 0xF00F = formatXYN c 0 0 n := by
  have h : formatXYN 0xF 0 0 0xF = 0xF00F := by decide
  apply BitVec.eq_of_getLsbD_eq
  intro i hi
  rw [← h, BitVec.getLsbD_and, getLsbD_formatXYN, getLsbD_formatXYN, getLsbD_formatXYN]
  split
  · split
    · split
      · rw [nibbleOnes _ (by assumption), Bool.and_true]
      · simp
    · simp
  · rw [nibbleOnes _ (by omega), Bool.and_true]

theorem formatXNN_classMask (c : BitVec 4) (x : RegIx) (nn : Byte) : formatXNN c x nn &&& 0xF000 = formatA c 0 :=
  formatA_mask c (x ++ nn)

theorem formatXYN_classMask (c : BitVec 4) (x y : RegIx) (n : BitVec 4) :
    formatXYN c x y n &&& 0xF000 = formatA c 0 := formatA_mask c _

/-- A decoded instruction was built by a row that its word matches, and is well-formed. -/
theorem decode_instr {c : Config} {op : Word} {i : Instr} (h : decode c op = .instr i) :
    ∃ r ∈ opcodeTable, r.matchesWord op = true ∧ r.build op = i ∧ i.wellFormed c = true := by
  unfold decode at h
  split at h
  · cases h
  · rename_i r hr
    split at h
    · cases h
      exact ⟨r, List.mem_of_find?_eq_some hr, by simpa using List.find?_some hr, rfl, by assumption⟩
    · cases h

theorem getLsbD_bigEndian (hi lo : Byte) (i : Nat) :
    (bigEndian hi lo).getLsbD i = if i < 8 then lo.getLsbD i else hi.getLsbD (i - 8) :=
  BitVec.getLsbD_append

/-- A word is its two bytes, high byte first (R54). -/
@[simp] theorem bigEndian_bytes (w : Word) : bigEndian (highByte w) (lowByte w) = w := by
  apply BitVec.eq_of_getLsbD_eq
  intro i hi
  rw [getLsbD_bigEndian]
  split
  · simp [lowByte, show i < 8 by assumption]
  · simp [highByte, show i - 8 < 8 by omega, show 8 + (i - 8) = i by omega]

end Sys2Proof
end

