-- ==== Sys2Proof/Laws/State.lean ====
section
/-! SUPPORT. One lemma per field per state update, so that no proof unfolds a record update. -/

namespace Sys2Proof.Machine

/-! The fixed numbers of R5, for arithmetic. -/
@[simp] theorem memSize_eq : memSize = 4096 := rfl
@[simp] theorem progBase_eq : progBase = 0x200 := rfl
@[simp] theorem stackCap_eq : stackCap = 16 := rfl
@[simp] theorem fbWidth_eq : fbWidth = 64 := rfl
@[simp] theorem fbHeight_eq : fbHeight = 32 := rfl
@[simp] theorem fontSize_eq : fontSize = 80 := rfl

variable (s : State)

/-! writeV -/
@[simp] theorem writeV_cfg (x : RegIx) (b : Byte) : (writeV s x b).cfg = s.cfg := rfl
@[simp] theorem writeV_v (x : RegIx) (b : Byte) : (writeV s x b).v = s.v.set x.toNat b x.isLt := rfl
@[simp] theorem writeV_iReg (x : RegIx) (b : Byte) : (writeV s x b).iReg = s.iReg := rfl
@[simp] theorem writeV_pc (x : RegIx) (b : Byte) : (writeV s x b).pc = s.pc := rfl
@[simp] theorem writeV_stack (x : RegIx) (b : Byte) : (writeV s x b).stack = s.stack := rfl
@[simp] theorem writeV_dt (x : RegIx) (b : Byte) : (writeV s x b).dt = s.dt := rfl
@[simp] theorem writeV_st (x : RegIx) (b : Byte) : (writeV s x b).st = s.st := rfl
@[simp] theorem writeV_mem (x : RegIx) (b : Byte) : (writeV s x b).mem = s.mem := rfl
@[simp] theorem writeV_fb (x : RegIx) (b : Byte) : (writeV s x b).fb = s.fb := rfl
@[simp] theorem writeV_run (x : RegIx) (b : Byte) : (writeV s x b).run = s.run := rfl
@[simp] theorem writeV_keys (x : RegIx) (b : Byte) : (writeV s x b).keys = s.keys := rfl
@[simp] theorem writeV_prevKeys (x : RegIx) (b : Byte) : (writeV s x b).prevKeys = s.prevKeys := rfl
@[simp] theorem writeV_diag (x : RegIx) (b : Byte) : (writeV s x b).diag = s.diag := rfl
@[simp] theorem writeV_renderPending (x : RegIx) (b : Byte) : (writeV s x b).renderPending = s.renderPending := rfl
@[simp] theorem writeV_draws (x : RegIx) (b : Byte) : (writeV s x b).draws = s.draws := rfl

/-! writeVF -/
@[simp] theorem writeVF_cfg (b : Byte) : (writeVF s b).cfg = s.cfg := rfl
@[simp] theorem writeVF_v (b : Byte) : (writeVF s b).v = s.v.set 15 b := rfl
@[simp] theorem writeVF_iReg (b : Byte) : (writeVF s b).iReg = s.iReg := rfl
@[simp] theorem writeVF_pc (b : Byte) : (writeVF s b).pc = s.pc := rfl
@[simp] theorem writeVF_stack (b : Byte) : (writeVF s b).stack = s.stack := rfl
@[simp] theorem writeVF_dt (b : Byte) : (writeVF s b).dt = s.dt := rfl
@[simp] theorem writeVF_st (b : Byte) : (writeVF s b).st = s.st := rfl
@[simp] theorem writeVF_mem (b : Byte) : (writeVF s b).mem = s.mem := rfl
@[simp] theorem writeVF_fb (b : Byte) : (writeVF s b).fb = s.fb := rfl
@[simp] theorem writeVF_run (b : Byte) : (writeVF s b).run = s.run := rfl
@[simp] theorem writeVF_keys (b : Byte) : (writeVF s b).keys = s.keys := rfl
@[simp] theorem writeVF_prevKeys (b : Byte) : (writeVF s b).prevKeys = s.prevKeys := rfl
@[simp] theorem writeVF_diag (b : Byte) : (writeVF s b).diag = s.diag := rfl
@[simp] theorem writeVF_renderPending (b : Byte) : (writeVF s b).renderPending = s.renderPending := rfl
@[simp] theorem writeVF_draws (b : Byte) : (writeVF s b).draws = s.draws := rfl

/-! writeI -/
@[simp] theorem writeI_cfg (w : Word) : (writeI s w).cfg = s.cfg := rfl
@[simp] theorem writeI_v (w : Word) : (writeI s w).v = s.v := rfl
@[simp] theorem writeI_iReg (w : Word) : (writeI s w).iReg = w := rfl
@[simp] theorem writeI_pc (w : Word) : (writeI s w).pc = s.pc := rfl
@[simp] theorem writeI_stack (w : Word) : (writeI s w).stack = s.stack := rfl
@[simp] theorem writeI_dt (w : Word) : (writeI s w).dt = s.dt := rfl
@[simp] theorem writeI_st (w : Word) : (writeI s w).st = s.st := rfl
@[simp] theorem writeI_mem (w : Word) : (writeI s w).mem = s.mem := rfl
@[simp] theorem writeI_fb (w : Word) : (writeI s w).fb = s.fb := rfl
@[simp] theorem writeI_run (w : Word) : (writeI s w).run = s.run := rfl
@[simp] theorem writeI_keys (w : Word) : (writeI s w).keys = s.keys := rfl
@[simp] theorem writeI_prevKeys (w : Word) : (writeI s w).prevKeys = s.prevKeys := rfl
@[simp] theorem writeI_diag (w : Word) : (writeI s w).diag = s.diag := rfl
@[simp] theorem writeI_renderPending (w : Word) : (writeI s w).renderPending = s.renderPending := rfl
@[simp] theorem writeI_draws (w : Word) : (writeI s w).draws = s.draws := rfl

/-! writePC -/
@[simp] theorem writePC_cfg (w : Word) : (writePC s w).cfg = s.cfg := rfl
@[simp] theorem writePC_v (w : Word) : (writePC s w).v = s.v := rfl
@[simp] theorem writePC_iReg (w : Word) : (writePC s w).iReg = s.iReg := rfl
@[simp] theorem writePC_pc (w : Word) : (writePC s w).pc = w := rfl
@[simp] theorem writePC_stack (w : Word) : (writePC s w).stack = s.stack := rfl
@[simp] theorem writePC_dt (w : Word) : (writePC s w).dt = s.dt := rfl
@[simp] theorem writePC_st (w : Word) : (writePC s w).st = s.st := rfl
@[simp] theorem writePC_mem (w : Word) : (writePC s w).mem = s.mem := rfl
@[simp] theorem writePC_fb (w : Word) : (writePC s w).fb = s.fb := rfl
@[simp] theorem writePC_run (w : Word) : (writePC s w).run = s.run := rfl
@[simp] theorem writePC_keys (w : Word) : (writePC s w).keys = s.keys := rfl
@[simp] theorem writePC_prevKeys (w : Word) : (writePC s w).prevKeys = s.prevKeys := rfl
@[simp] theorem writePC_diag (w : Word) : (writePC s w).diag = s.diag := rfl
@[simp] theorem writePC_renderPending (w : Word) : (writePC s w).renderPending = s.renderPending := rfl
@[simp] theorem writePC_draws (w : Word) : (writePC s w).draws = s.draws := rfl

/-! writeDT -/
@[simp] theorem writeDT_cfg (b : Byte) : (writeDT s b).cfg = s.cfg := rfl
@[simp] theorem writeDT_v (b : Byte) : (writeDT s b).v = s.v := rfl
@[simp] theorem writeDT_iReg (b : Byte) : (writeDT s b).iReg = s.iReg := rfl
@[simp] theorem writeDT_pc (b : Byte) : (writeDT s b).pc = s.pc := rfl
@[simp] theorem writeDT_stack (b : Byte) : (writeDT s b).stack = s.stack := rfl
@[simp] theorem writeDT_dt (b : Byte) : (writeDT s b).dt = b := rfl
@[simp] theorem writeDT_st (b : Byte) : (writeDT s b).st = s.st := rfl
@[simp] theorem writeDT_mem (b : Byte) : (writeDT s b).mem = s.mem := rfl
@[simp] theorem writeDT_fb (b : Byte) : (writeDT s b).fb = s.fb := rfl
@[simp] theorem writeDT_run (b : Byte) : (writeDT s b).run = s.run := rfl
@[simp] theorem writeDT_keys (b : Byte) : (writeDT s b).keys = s.keys := rfl
@[simp] theorem writeDT_prevKeys (b : Byte) : (writeDT s b).prevKeys = s.prevKeys := rfl
@[simp] theorem writeDT_diag (b : Byte) : (writeDT s b).diag = s.diag := rfl
@[simp] theorem writeDT_renderPending (b : Byte) : (writeDT s b).renderPending = s.renderPending := rfl
@[simp] theorem writeDT_draws (b : Byte) : (writeDT s b).draws = s.draws := rfl

/-! writeST -/
@[simp] theorem writeST_cfg (b : Byte) : (writeST s b).cfg = s.cfg := rfl
@[simp] theorem writeST_v (b : Byte) : (writeST s b).v = s.v := rfl
@[simp] theorem writeST_iReg (b : Byte) : (writeST s b).iReg = s.iReg := rfl
@[simp] theorem writeST_pc (b : Byte) : (writeST s b).pc = s.pc := rfl
@[simp] theorem writeST_stack (b : Byte) : (writeST s b).stack = s.stack := rfl
@[simp] theorem writeST_dt (b : Byte) : (writeST s b).dt = s.dt := rfl
@[simp] theorem writeST_st (b : Byte) : (writeST s b).st = b := rfl
@[simp] theorem writeST_mem (b : Byte) : (writeST s b).mem = s.mem := rfl
@[simp] theorem writeST_fb (b : Byte) : (writeST s b).fb = s.fb := rfl
@[simp] theorem writeST_run (b : Byte) : (writeST s b).run = s.run := rfl
@[simp] theorem writeST_keys (b : Byte) : (writeST s b).keys = s.keys := rfl
@[simp] theorem writeST_prevKeys (b : Byte) : (writeST s b).prevKeys = s.prevKeys := rfl
@[simp] theorem writeST_diag (b : Byte) : (writeST s b).diag = s.diag := rfl
@[simp] theorem writeST_renderPending (b : Byte) : (writeST s b).renderPending = s.renderPending := rfl
@[simp] theorem writeST_draws (b : Byte) : (writeST s b).draws = s.draws := rfl

/-! writeRun -/
@[simp] theorem writeRun_cfg (r : RunState) : (writeRun s r).cfg = s.cfg := rfl
@[simp] theorem writeRun_v (r : RunState) : (writeRun s r).v = s.v := rfl
@[simp] theorem writeRun_iReg (r : RunState) : (writeRun s r).iReg = s.iReg := rfl
@[simp] theorem writeRun_pc (r : RunState) : (writeRun s r).pc = s.pc := rfl
@[simp] theorem writeRun_stack (r : RunState) : (writeRun s r).stack = s.stack := rfl
@[simp] theorem writeRun_dt (r : RunState) : (writeRun s r).dt = s.dt := rfl
@[simp] theorem writeRun_st (r : RunState) : (writeRun s r).st = s.st := rfl
@[simp] theorem writeRun_mem (r : RunState) : (writeRun s r).mem = s.mem := rfl
@[simp] theorem writeRun_fb (r : RunState) : (writeRun s r).fb = s.fb := rfl
@[simp] theorem writeRun_run (r : RunState) : (writeRun s r).run = r := rfl
@[simp] theorem writeRun_keys (r : RunState) : (writeRun s r).keys = s.keys := rfl
@[simp] theorem writeRun_prevKeys (r : RunState) : (writeRun s r).prevKeys = s.prevKeys := rfl
@[simp] theorem writeRun_diag (r : RunState) : (writeRun s r).diag = s.diag := rfl
@[simp] theorem writeRun_renderPending (r : RunState) : (writeRun s r).renderPending = s.renderPending := rfl
@[simp] theorem writeRun_draws (r : RunState) : (writeRun s r).draws = s.draws := rfl

/-! writeFb -/
@[simp] theorem writeFb_cfg (f : Framebuffer) : (writeFb s f).cfg = s.cfg := rfl
@[simp] theorem writeFb_v (f : Framebuffer) : (writeFb s f).v = s.v := rfl
@[simp] theorem writeFb_iReg (f : Framebuffer) : (writeFb s f).iReg = s.iReg := rfl
@[simp] theorem writeFb_pc (f : Framebuffer) : (writeFb s f).pc = s.pc := rfl
@[simp] theorem writeFb_stack (f : Framebuffer) : (writeFb s f).stack = s.stack := rfl
@[simp] theorem writeFb_dt (f : Framebuffer) : (writeFb s f).dt = s.dt := rfl
@[simp] theorem writeFb_st (f : Framebuffer) : (writeFb s f).st = s.st := rfl
@[simp] theorem writeFb_mem (f : Framebuffer) : (writeFb s f).mem = s.mem := rfl
@[simp] theorem writeFb_fb (f : Framebuffer) : (writeFb s f).fb = f := rfl
@[simp] theorem writeFb_run (f : Framebuffer) : (writeFb s f).run = s.run := rfl
@[simp] theorem writeFb_keys (f : Framebuffer) : (writeFb s f).keys = s.keys := rfl
@[simp] theorem writeFb_prevKeys (f : Framebuffer) : (writeFb s f).prevKeys = s.prevKeys := rfl
@[simp] theorem writeFb_diag (f : Framebuffer) : (writeFb s f).diag = s.diag := rfl
@[simp] theorem writeFb_renderPending (f : Framebuffer) : (writeFb s f).renderPending = s.renderPending := rfl
@[simp] theorem writeFb_draws (f : Framebuffer) : (writeFb s f).draws = s.draws := rfl

/-! writeRenderPending -/
@[simp] theorem writeRenderPending_cfg (b : Bool) : (writeRenderPending s b).cfg = s.cfg := rfl
@[simp] theorem writeRenderPending_v (b : Bool) : (writeRenderPending s b).v = s.v := rfl
@[simp] theorem writeRenderPending_iReg (b : Bool) : (writeRenderPending s b).iReg = s.iReg := rfl
@[simp] theorem writeRenderPending_pc (b : Bool) : (writeRenderPending s b).pc = s.pc := rfl
@[simp] theorem writeRenderPending_stack (b : Bool) : (writeRenderPending s b).stack = s.stack := rfl
@[simp] theorem writeRenderPending_dt (b : Bool) : (writeRenderPending s b).dt = s.dt := rfl
@[simp] theorem writeRenderPending_st (b : Bool) : (writeRenderPending s b).st = s.st := rfl
@[simp] theorem writeRenderPending_mem (b : Bool) : (writeRenderPending s b).mem = s.mem := rfl
@[simp] theorem writeRenderPending_fb (b : Bool) : (writeRenderPending s b).fb = s.fb := rfl
@[simp] theorem writeRenderPending_run (b : Bool) : (writeRenderPending s b).run = s.run := rfl
@[simp] theorem writeRenderPending_keys (b : Bool) : (writeRenderPending s b).keys = s.keys := rfl
@[simp] theorem writeRenderPending_prevKeys (b : Bool) : (writeRenderPending s b).prevKeys = s.prevKeys := rfl
@[simp] theorem writeRenderPending_diag (b : Bool) : (writeRenderPending s b).diag = s.diag := rfl
@[simp] theorem writeRenderPending_renderPending (b : Bool) : (writeRenderPending s b).renderPending = b := rfl
@[simp] theorem writeRenderPending_draws (b : Bool) : (writeRenderPending s b).draws = s.draws := rfl

/-! writeCell -/
@[simp] theorem writeCell_cfg (p : Nat) (b : Byte) : (writeCell s p b).cfg = s.cfg := rfl
@[simp] theorem writeCell_v (p : Nat) (b : Byte) : (writeCell s p b).v = s.v := rfl
@[simp] theorem writeCell_iReg (p : Nat) (b : Byte) : (writeCell s p b).iReg = s.iReg := rfl
@[simp] theorem writeCell_pc (p : Nat) (b : Byte) : (writeCell s p b).pc = s.pc := rfl
@[simp] theorem writeCell_stack (p : Nat) (b : Byte) : (writeCell s p b).stack = s.stack := rfl
@[simp] theorem writeCell_dt (p : Nat) (b : Byte) : (writeCell s p b).dt = s.dt := rfl
@[simp] theorem writeCell_st (p : Nat) (b : Byte) : (writeCell s p b).st = s.st := rfl
@[simp] theorem writeCell_mem (p : Nat) (b : Byte) : (writeCell s p b).mem = Memory.write s.cfg s.mem p b := rfl
@[simp] theorem writeCell_fb (p : Nat) (b : Byte) : (writeCell s p b).fb = s.fb := rfl
@[simp] theorem writeCell_run (p : Nat) (b : Byte) : (writeCell s p b).run = s.run := rfl
@[simp] theorem writeCell_keys (p : Nat) (b : Byte) : (writeCell s p b).keys = s.keys := rfl
@[simp] theorem writeCell_prevKeys (p : Nat) (b : Byte) : (writeCell s p b).prevKeys = s.prevKeys := rfl
@[simp] theorem writeCell_diag (p : Nat) (b : Byte) : (writeCell s p b).diag = s.diag := rfl
@[simp] theorem writeCell_renderPending (p : Nat) (b : Byte) : (writeCell s p b).renderPending = s.renderPending := rfl
@[simp] theorem writeCell_draws (p : Nat) (b : Byte) : (writeCell s p b).draws = s.draws := rfl

/-! appendDiag -/
@[simp] theorem appendDiag_cfg (op a : Word) : (appendDiag s op a).cfg = s.cfg := rfl
@[simp] theorem appendDiag_v (op a : Word) : (appendDiag s op a).v = s.v := rfl
@[simp] theorem appendDiag_iReg (op a : Word) : (appendDiag s op a).iReg = s.iReg := rfl
@[simp] theorem appendDiag_pc (op a : Word) : (appendDiag s op a).pc = s.pc := rfl
@[simp] theorem appendDiag_stack (op a : Word) : (appendDiag s op a).stack = s.stack := rfl
@[simp] theorem appendDiag_dt (op a : Word) : (appendDiag s op a).dt = s.dt := rfl
@[simp] theorem appendDiag_st (op a : Word) : (appendDiag s op a).st = s.st := rfl
@[simp] theorem appendDiag_mem (op a : Word) : (appendDiag s op a).mem = s.mem := rfl
@[simp] theorem appendDiag_fb (op a : Word) : (appendDiag s op a).fb = s.fb := rfl
@[simp] theorem appendDiag_run (op a : Word) : (appendDiag s op a).run = s.run := rfl
@[simp] theorem appendDiag_keys (op a : Word) : (appendDiag s op a).keys = s.keys := rfl
@[simp] theorem appendDiag_prevKeys (op a : Word) : (appendDiag s op a).prevKeys = s.prevKeys := rfl
@[simp] theorem appendDiag_diag (op a : Word) : (appendDiag s op a).diag = s.diag ++ [(op, a)] := rfl
@[simp] theorem appendDiag_renderPending (op a : Word) : (appendDiag s op a).renderPending = s.renderPending := rfl
@[simp] theorem appendDiag_draws (op a : Word) : (appendDiag s op a).draws = s.draws := rfl

/-! raiseHalt -/
@[simp] theorem raiseHalt_cfg (r : HaltReason) : (raiseHalt r s).cfg = s.cfg := rfl
@[simp] theorem raiseHalt_v (r : HaltReason) : (raiseHalt r s).v = s.v := rfl
@[simp] theorem raiseHalt_iReg (r : HaltReason) : (raiseHalt r s).iReg = s.iReg := rfl
@[simp] theorem raiseHalt_pc (r : HaltReason) : (raiseHalt r s).pc = s.pc := rfl
@[simp] theorem raiseHalt_stack (r : HaltReason) : (raiseHalt r s).stack = s.stack := rfl
@[simp] theorem raiseHalt_dt (r : HaltReason) : (raiseHalt r s).dt = s.dt := rfl
@[simp] theorem raiseHalt_st (r : HaltReason) : (raiseHalt r s).st = s.st := rfl
@[simp] theorem raiseHalt_mem (r : HaltReason) : (raiseHalt r s).mem = s.mem := rfl
@[simp] theorem raiseHalt_fb (r : HaltReason) : (raiseHalt r s).fb = s.fb := rfl
@[simp] theorem raiseHalt_run (r : HaltReason) : (raiseHalt r s).run = .halted r := rfl
@[simp] theorem raiseHalt_keys (r : HaltReason) : (raiseHalt r s).keys = s.keys := rfl
@[simp] theorem raiseHalt_prevKeys (r : HaltReason) : (raiseHalt r s).prevKeys = s.prevKeys := rfl
@[simp] theorem raiseHalt_diag (r : HaltReason) : (raiseHalt r s).diag = s.diag := rfl
@[simp] theorem raiseHalt_renderPending (r : HaltReason) : (raiseHalt r s).renderPending = s.renderPending := rfl
@[simp] theorem raiseHalt_draws (r : HaltReason) : (raiseHalt r s).draws = s.draws := rfl

/-! advance -/
@[simp] theorem advance_cfg : (advance s).cfg = s.cfg := rfl
@[simp] theorem advance_v : (advance s).v = s.v := rfl
@[simp] theorem advance_iReg : (advance s).iReg = s.iReg := rfl
@[simp] theorem advance_pc : (advance s).pc = s.pc + 2 := rfl
@[simp] theorem advance_stack : (advance s).stack = s.stack := rfl
@[simp] theorem advance_dt : (advance s).dt = s.dt := rfl
@[simp] theorem advance_st : (advance s).st = s.st := rfl
@[simp] theorem advance_mem : (advance s).mem = s.mem := rfl
@[simp] theorem advance_fb : (advance s).fb = s.fb := rfl
@[simp] theorem advance_run : (advance s).run = s.run := rfl
@[simp] theorem advance_keys : (advance s).keys = s.keys := rfl
@[simp] theorem advance_prevKeys : (advance s).prevKeys = s.prevKeys := rfl
@[simp] theorem advance_diag : (advance s).diag = s.diag := rfl
@[simp] theorem advance_renderPending : (advance s).renderPending = s.renderPending := rfl
@[simp] theorem advance_draws : (advance s).draws = s.draws := rfl

/-! skipIf -/
@[simp] theorem skipIf_cfg (c : Bool) : (skipIf s c).cfg = s.cfg := rfl
@[simp] theorem skipIf_v (c : Bool) : (skipIf s c).v = s.v := rfl
@[simp] theorem skipIf_iReg (c : Bool) : (skipIf s c).iReg = s.iReg := rfl
@[simp] theorem skipIf_pc (c : Bool) : (skipIf s c).pc = s.pc + if c then 4 else 2 := rfl
@[simp] theorem skipIf_stack (c : Bool) : (skipIf s c).stack = s.stack := rfl
@[simp] theorem skipIf_dt (c : Bool) : (skipIf s c).dt = s.dt := rfl
@[simp] theorem skipIf_st (c : Bool) : (skipIf s c).st = s.st := rfl
@[simp] theorem skipIf_mem (c : Bool) : (skipIf s c).mem = s.mem := rfl
@[simp] theorem skipIf_fb (c : Bool) : (skipIf s c).fb = s.fb := rfl
@[simp] theorem skipIf_run (c : Bool) : (skipIf s c).run = s.run := rfl
@[simp] theorem skipIf_keys (c : Bool) : (skipIf s c).keys = s.keys := rfl
@[simp] theorem skipIf_prevKeys (c : Bool) : (skipIf s c).prevKeys = s.prevKeys := rfl
@[simp] theorem skipIf_diag (c : Bool) : (skipIf s c).diag = s.diag := rfl
@[simp] theorem skipIf_renderPending (c : Bool) : (skipIf s c).renderPending = s.renderPending := rfl
@[simp] theorem skipIf_draws (c : Bool) : (skipIf s c).draws = s.draws := rfl

/-! draw8 -/
@[simp] theorem draw8_cfg : ((draw8 s).2).cfg = s.cfg := rfl
@[simp] theorem draw8_v : ((draw8 s).2).v = s.v := rfl
@[simp] theorem draw8_iReg : ((draw8 s).2).iReg = s.iReg := rfl
@[simp] theorem draw8_pc : ((draw8 s).2).pc = s.pc := rfl
@[simp] theorem draw8_stack : ((draw8 s).2).stack = s.stack := rfl
@[simp] theorem draw8_dt : ((draw8 s).2).dt = s.dt := rfl
@[simp] theorem draw8_st : ((draw8 s).2).st = s.st := rfl
@[simp] theorem draw8_mem : ((draw8 s).2).mem = s.mem := rfl
@[simp] theorem draw8_fb : ((draw8 s).2).fb = s.fb := rfl
@[simp] theorem draw8_run : ((draw8 s).2).run = s.run := rfl
@[simp] theorem draw8_keys : ((draw8 s).2).keys = s.keys := rfl
@[simp] theorem draw8_prevKeys : ((draw8 s).2).prevKeys = s.prevKeys := rfl
@[simp] theorem draw8_diag : ((draw8 s).2).diag = s.diag := rfl
@[simp] theorem draw8_renderPending : ((draw8 s).2).renderPending = s.renderPending := rfl
@[simp] theorem draw8_draws : ((draw8 s).2).draws = s.draws + 1 := rfl

/-! tick -/
@[simp] theorem tick_cfg : (tick s).cfg = s.cfg := rfl
@[simp] theorem tick_v : (tick s).v = s.v := rfl
@[simp] theorem tick_iReg : (tick s).iReg = s.iReg := rfl
@[simp] theorem tick_pc : (tick s).pc = s.pc := rfl
@[simp] theorem tick_stack : (tick s).stack = s.stack := rfl
@[simp] theorem tick_dt : (tick s).dt = if s.dt = 0 then 0 else s.dt - 1 := rfl
@[simp] theorem tick_st : (tick s).st = if s.st = 0 then 0 else s.st - 1 := rfl
@[simp] theorem tick_mem : (tick s).mem = s.mem := rfl
@[simp] theorem tick_fb : (tick s).fb = s.fb := rfl
@[simp] theorem tick_run : (tick s).run = s.run := rfl
@[simp] theorem tick_keys : (tick s).keys = s.keys := rfl
@[simp] theorem tick_prevKeys : (tick s).prevKeys = s.prevKeys := rfl
@[simp] theorem tick_diag : (tick s).diag = s.diag := rfl
@[simp] theorem tick_renderPending : (tick s).renderPending = s.renderPending := rfl
@[simp] theorem tick_draws : (tick s).draws = s.draws := rfl

/-! refreshKeys -/
@[simp] theorem refreshKeys_cfg (k : Vector Bool 16) : (refreshKeys k s).cfg = s.cfg := rfl
@[simp] theorem refreshKeys_v (k : Vector Bool 16) : (refreshKeys k s).v = s.v := rfl
@[simp] theorem refreshKeys_iReg (k : Vector Bool 16) : (refreshKeys k s).iReg = s.iReg := rfl
@[simp] theorem refreshKeys_pc (k : Vector Bool 16) : (refreshKeys k s).pc = s.pc := rfl
@[simp] theorem refreshKeys_stack (k : Vector Bool 16) : (refreshKeys k s).stack = s.stack := rfl
@[simp] theorem refreshKeys_dt (k : Vector Bool 16) : (refreshKeys k s).dt = s.dt := rfl
@[simp] theorem refreshKeys_st (k : Vector Bool 16) : (refreshKeys k s).st = s.st := rfl
@[simp] theorem refreshKeys_mem (k : Vector Bool 16) : (refreshKeys k s).mem = s.mem := rfl
@[simp] theorem refreshKeys_fb (k : Vector Bool 16) : (refreshKeys k s).fb = s.fb := rfl
@[simp] theorem refreshKeys_run (k : Vector Bool 16) : (refreshKeys k s).run = s.run := rfl
@[simp] theorem refreshKeys_keys (k : Vector Bool 16) : (refreshKeys k s).keys = k := rfl
@[simp] theorem refreshKeys_prevKeys (k : Vector Bool 16) : (refreshKeys k s).prevKeys = s.keys := rfl
@[simp] theorem refreshKeys_diag (k : Vector Bool 16) : (refreshKeys k s).diag = s.diag := rfl
@[simp] theorem refreshKeys_renderPending (k : Vector Bool 16) : (refreshKeys k s).renderPending = s.renderPending := rfl
@[simp] theorem refreshKeys_draws (k : Vector Bool 16) : (refreshKeys k s).draws = s.draws := rfl

/-! ackRender -/
@[simp] theorem ackRender_cfg : (ackRender s).cfg = s.cfg := rfl
@[simp] theorem ackRender_v : (ackRender s).v = s.v := rfl
@[simp] theorem ackRender_iReg : (ackRender s).iReg = s.iReg := rfl
@[simp] theorem ackRender_pc : (ackRender s).pc = s.pc := rfl
@[simp] theorem ackRender_stack : (ackRender s).stack = s.stack := rfl
@[simp] theorem ackRender_dt : (ackRender s).dt = s.dt := rfl
@[simp] theorem ackRender_st : (ackRender s).st = s.st := rfl
@[simp] theorem ackRender_mem : (ackRender s).mem = s.mem := rfl
@[simp] theorem ackRender_fb : (ackRender s).fb = s.fb := rfl
@[simp] theorem ackRender_run : (ackRender s).run = s.run := rfl
@[simp] theorem ackRender_keys : (ackRender s).keys = s.keys := rfl
@[simp] theorem ackRender_prevKeys : (ackRender s).prevKeys = s.prevKeys := rfl
@[simp] theorem ackRender_diag : (ackRender s).diag = s.diag := rfl
@[simp] theorem ackRender_renderPending : (ackRender s).renderPending = false := rfl
@[simp] theorem ackRender_draws : (ackRender s).draws = s.draws := rfl

end Sys2Proof.Machine
end

