-- ==== Sys2Proof/Laws/Registers.lean ====
section
/-! SUPPORT. What a register reads as after each update, and what the composed updates leave alone. -/

namespace Sys2Proof.Machine

theorem readV_congr {s t : State} (h : t.v = s.v) (x : RegIx) : readV t x = readV s x := by
  simp [readV, h]

theorem readV_writeV (s : State) (x y : RegIx) (b : Byte) :
    readV (writeV s x b) y = if y = x then b else readV s y := by
  by_cases h : y = x
  · subst h; simp [readV]
  · have h' : x.toNat ≠ y.toNat := fun e => h (BitVec.eq_of_toNat_eq e.symm)
    simp [readV, h, h']

@[simp] theorem readV_writeV_same (s : State) (x : RegIx) (b : Byte) : readV (writeV s x b) x = b := by
  simp [readV_writeV]

theorem readV_writeV_ne (s : State) {x y : RegIx} (b : Byte) (h : y ≠ x) : readV (writeV s x b) y = readV s y := by
  simp [readV_writeV, h]

theorem readV_writeVF (s : State) (y : RegIx) (b : Byte) :
    readV (writeVF s b) y = if y = vf then b else readV s y := readV_writeV s vf y b

@[simp] theorem readV_writeVF_vf (s : State) (b : Byte) : readV (writeVF s b) 15#4 = b := readV_writeV_same s 15 b

theorem readV_writeVF_ne (s : State) {y : RegIx} (b : Byte) (h : y ≠ 15) : readV (writeVF s b) y = readV s y :=
  readV_writeV_ne s b h

@[simp] theorem readV_writeI (s : State) (w : Word) (x : RegIx) : readV (writeI s w) x = readV s x := rfl
@[simp] theorem readV_writePC (s : State) (w : Word) (x : RegIx) : readV (writePC s w) x = readV s x := rfl
@[simp] theorem readV_writeDT (s : State) (b : Byte) (x : RegIx) : readV (writeDT s b) x = readV s x := rfl
@[simp] theorem readV_writeST (s : State) (b : Byte) (x : RegIx) : readV (writeST s b) x = readV s x := rfl
@[simp] theorem readV_writeRun (s : State) (r : RunState) (x : RegIx) : readV (writeRun s r) x = readV s x := rfl
@[simp] theorem readV_writeFb (s : State) (f : Framebuffer) (x : RegIx) : readV (writeFb s f) x = readV s x := rfl
@[simp] theorem readV_writeRenderPending (s : State) (b : Bool) (x : RegIx) :
    readV (writeRenderPending s b) x = readV s x := rfl
@[simp] theorem readV_writeCell (s : State) (p : Nat) (b : Byte) (x : RegIx) :
    readV (writeCell s p b) x = readV s x := rfl
@[simp] theorem readV_advance (s : State) (x : RegIx) : readV (advance s) x = readV s x := rfl
@[simp] theorem readV_skipIf (s : State) (c : Bool) (x : RegIx) : readV (skipIf s c) x = readV s x := rfl
@[simp] theorem readV_draw8 (s : State) (x : RegIx) : readV (draw8 s).2 x = readV s x := rfl

/-- Two register files that read alike are equal. -/
theorem v_ext {s t : State} (h : ∀ x, readV s x = readV t x) : s.v = t.v := by
  apply Vector.ext
  intro i hi
  have := h (BitVec.ofNat 4 i)
  simpa [readV, Nat.mod_eq_of_lt hi] using this

/-- The whole effect of a register load: only `v` changes (R186). -/
theorem writeRegsFrom_eq (bs : List Byte) (s : State) (first : Nat) :
    writeRegsFrom s first bs = { s with v := (writeRegsFrom s first bs).v } := by
  induction bs generalizing s first with
  | nil => rfl
  | cons b bs ih => rw [writeRegsFrom, ih]; rfl

/-- What register `k` holds after a register load of `bs` at `first` (R186). -/
theorem readV_writeRegsFrom (bs : List Byte) (s : State) (first k : Nat) (hb : first + bs.length ≤ 16) (hk : k < 16) :
    readV (writeRegsFrom s first bs) (BitVec.ofNat 4 k) =
      if h : first ≤ k ∧ k < first + bs.length then bs[k - first]'(by omega) else readV s (BitVec.ofNat 4 k) := by
  induction bs generalizing s first with
  | nil => simp [writeRegsFrom]
  | cons b bs ih =>
    rw [writeRegsFrom, ih _ _ (by simp at hb; omega), readV_writeV]
    by_cases hkf : k = first
    · subst hkf; simp
    · have hne : BitVec.ofNat 4 k ≠ BitVec.ofNat 4 first := by
        intro e
        have := congrArg BitVec.toNat e
        simp at this hb
        omega
      by_cases hlt : first + 1 ≤ k ∧ k < first + 1 + bs.length
      · have h2 : first ≤ k ∧ k < first + (b :: bs).length := by simp; omega
        have h3 : k - first = (k - (first + 1)) + 1 := by omega
        simp [hlt, h2, h3]
        omega
      · have h2 : ¬ (first ≤ k ∧ k < first + (b :: bs).length) := by simp; omega
        rw [dif_neg hlt, dif_neg h2, if_neg hne]

end Sys2Proof.Machine
end

