-- ==== Sys2Proof/Laws/Memory.lean ====
section
/-! SUPPORT. Memory: read after write, the canonical form is kept by every operation, and what an access can do. -/

namespace Sys2Proof.Machine

/-! ### One cell -/

theorem Memory.read_write_same (c : Config) (m : Memory) (p : Nat) (b : Byte) (lo : Nat) (h : Memory.wfFrom c lo m) :
    Memory.read c (Memory.write c m p b) p = b := by
  induction m generalizing lo with
  | nil => simp only [Memory.write]; split <;> simp_all [Memory.read]
  | cons qd m ih =>
    obtain ⟨q, d⟩ := qd
    simp only [Memory.wfFrom, Bool.and_eq_true, decide_eq_true_eq] at h
    have absent : ∀ (m : Memory) (lo : Nat), Memory.wfFrom c lo m → p < lo → Memory.read c m p = resetByte c p := by
      intro m
      induction m with
      | nil => intros; rfl
      | cons qd m ih =>
        intro lo hw hlt
        obtain ⟨q, d⟩ := qd
        simp only [Memory.wfFrom, Bool.and_eq_true, decide_eq_true_eq] at hw
        rw [Memory.read, if_neg (by omega)]
        exact ih _ hw.2 (by omega)
    simp only [Memory.write]
    split
    · split
      · rename_i hb
        rw [Memory.read, if_neg (by omega), hb]
        exact absent m _ h.2 (by omega)
      · simp [Memory.read]
    · split
      · split
        · rename_i hb
          rw [hb]
          exact absent m _ h.2 (by omega)
        · simp [Memory.read]
      · rename_i h1 h2
        rw [Memory.read, if_neg (by omega)]
        exact ih _ h.2

theorem Memory.read_write_ne (c : Config) (m : Memory) {p r : Nat} (b : Byte) (h : r ≠ p) :
    Memory.read c (Memory.write c m p b) r = Memory.read c m r := by
  induction m with
  | nil => simp only [Memory.write]; split <;> simp [Memory.read, h.symm]
  | cons qd m ih =>
    obtain ⟨q, d⟩ := qd
    simp only [Memory.write]
    split
    · split <;> simp [Memory.read, h.symm]
    · split
      · rename_i hq
        subst hq
        split <;> simp [Memory.read, h.symm]
      · simp [Memory.read, ih]

/-- A write keeps the canonical form. -/
theorem Memory.wfFrom_write (c : Config) (m : Memory) (p : Nat) (b : Byte) (lo : Nat) (hlo : lo ≤ p) (hp : p < memSize)
    (h : Memory.wfFrom c lo m) : Memory.wfFrom c lo (Memory.write c m p b) := by
  induction m generalizing lo with
  | nil => simp only [Memory.write]; split <;> simp_all [Memory.wfFrom]
  | cons qd m ih =>
    obtain ⟨q, d⟩ := qd
    have weaken : ∀ (m : Memory) (lo lo' : Nat), lo' ≤ lo → Memory.wfFrom c lo m → Memory.wfFrom c lo' m := by
      intro m lo lo' hle hw
      cases m with
      | nil => rfl
      | cons qd m =>
        simp only [Memory.wfFrom, Bool.and_eq_true, decide_eq_true_eq] at hw ⊢
        exact ⟨⟨⟨by omega, hw.1.1.2⟩, hw.1.2⟩, hw.2⟩
    simp only [Memory.wfFrom, Bool.and_eq_true, decide_eq_true_eq] at h
    obtain ⟨⟨⟨h1, h2⟩, h3⟩, h4⟩ := h
    simp only [Memory.write]
    split
    · rename_i hlt
      split
      · simp only [Memory.wfFrom, Bool.and_eq_true, decide_eq_true_eq]
        exact ⟨⟨⟨h1, h2⟩, h3⟩, h4⟩
      · simp only [Memory.wfFrom, Bool.and_eq_true, decide_eq_true_eq]
        exact ⟨⟨⟨hlo, hp⟩, by assumption⟩, ⟨⟨⟨by omega, h2⟩, h3⟩, h4⟩⟩
    · split
      · rename_i heq
        subst heq
        split
        · exact weaken m _ _ (by omega) h4
        · simp only [Memory.wfFrom, Bool.and_eq_true, decide_eq_true_eq]
          exact ⟨⟨⟨hlo, hp⟩, by assumption⟩, h4⟩
      · simp only [Memory.wfFrom, Bool.and_eq_true, decide_eq_true_eq]
        exact ⟨⟨⟨h1, h2⟩, h3⟩, ih _ (by omega) h4⟩

theorem Memory.wf_write {c : Config} {m : Memory} {p : Nat} (b : Byte) (hp : p < memSize) (h : Memory.wf c m) :
    Memory.wf c (Memory.write c m p b) := Memory.wfFrom_write c m p b 0 (Nat.zero_le _) hp h

theorem Memory.wf_nil (c : Config) : Memory.wf c [] := rfl

theorem readCell_writeCell (s : State) (h : Memory.wf s.cfg s.mem) (p r : Nat) (b : Byte) :
    readCell (writeCell s p b) r = if r = p then b else readCell s r := by
  by_cases hr : r = p
  · subst hr; simpa [readCell] using Memory.read_write_same s.cfg s.mem r b 0 h
  · simpa [readCell, hr] using Memory.read_write_ne s.cfg s.mem b hr

theorem readCell_writeCell_ne (s : State) {p r : Nat} (b : Byte) (h : r ≠ p) :
    readCell (writeCell s p b) r = readCell s r := Memory.read_write_ne s.cfg s.mem b h

theorem readCell_congr {s t : State} (hc : t.cfg = s.cfg) (hm : t.mem = s.mem) (p : Nat) : readCell t p = readCell s p := by
  simp [readCell, hc, hm]

/-! ### Several cells -/

/-- Writing cells changes memory only. -/
theorem writeCells_eq (pbs : List (Nat × Byte)) (s : State) :
    writeCells s pbs = { s with mem := (writeCells s pbs).mem } := by
  induction pbs generalizing s with
  | nil => rfl
  | cons pb pbs ih => rw [writeCells, ih]; rfl

theorem writeCells_wf (pbs : List (Nat × Byte)) (s : State) (h : Memory.wf s.cfg s.mem)
    (hp : ∀ pb ∈ pbs, pb.1 < memSize) : Memory.wf s.cfg (writeCells s pbs).mem := by
  induction pbs generalizing s with
  | nil => exact h
  | cons pb pbs ih =>
    exact ih (writeCell s pb.1 pb.2) (Memory.wf_write _ (hp pb (by simp)) h) fun q hq => hp q (by simp [hq])

/-- A cell that is not written keeps its value. -/
theorem readCell_writeCells_ne (pbs : List (Nat × Byte)) (s : State) (r : Nat) (h : ∀ pb ∈ pbs, pb.1 ≠ r) :
    readCell (writeCells s pbs) r = readCell s r := by
  induction pbs generalizing s with
  | nil => rfl
  | cons pb pbs ih =>
    rw [writeCells, ih _ fun q hq => h q (by simp [hq])]
    exact readCell_writeCell_ne s _ (Ne.symm (h pb (by simp)))

/-- A written cell holds the byte written to it, when the cells are distinct. -/
theorem readCell_writeCells_mem (pbs : List (Nat × Byte)) (s : State) (hw : Memory.wf s.cfg s.mem)
    (hb : ∀ pb ∈ pbs, pb.1 < memSize) (hd : (pbs.map (·.1)).Nodup) {p : Nat} {b : Byte} (h : (p, b) ∈ pbs) :
    readCell (writeCells s pbs) p = b := by
  induction pbs generalizing s with
  | nil => simp at h
  | cons pb pbs ih =>
    rw [writeCells]
    simp only [List.map_cons, List.nodup_cons] at hd
    rcases List.mem_cons.mp h with h | h
    · subst h
      rw [readCell_writeCells_ne, readCell_writeCell s hw, if_pos rfl]
      intro q hq hqe
      exact hd.1 (List.mem_map.mpr ⟨q, hq, hqe⟩)
    · exact ih _ (Memory.wf_write _ (hb pb (by simp)) hw) (fun q hq => hb q (by simp [hq])) hd.2 h

/-! ### Address translation (R52, R53, R56) -/

theorem phys_lt {c : Config} {a p : Nat} (h : phys c a = some p) : p < memSize := by
  unfold phys at h
  split at h
  · cases h; exact Nat.mod_lt _ (by decide)
  · split at h
    · cases h; assumption
    · cases h

theorem phys_eq_mod {c : Config} {a p : Nat} (h : phys c a = some p) : p = a % memSize := by
  unfold phys at h
  split at h
  · exact (Option.some.inj h).symm
  · split at h
    · cases h; exact (Nat.mod_eq_of_lt (by assumption)).symm
    · cases h

/-- The cells of an access are `(a + k) mod 4096` in ascending order, whichever mode let it through. -/
theorem physRange_eq {c : Config} {a n : Nat} {ps : List Nat} (h : physRange c a n = some ps) :
    ps = (List.range n).map fun k => (a + k) % memSize := by
  induction n generalizing a ps with
  | zero => simpa [physRange] using h.symm
  | succ n ih =>
    simp only [physRange] at h
    split at h
    · rename_i p qs hp hq
      cases h
      rw [List.range_succ_eq_map, List.map_cons, List.map_map, ih hq, phys_eq_mod hp]
      simp [Function.comp_def, Nat.add_assoc, Nat.add_comm 1]
    · cases h

/-- The k-th cell of an access. -/
theorem physRange_getElem? {c : Config} {a n k : Nat} {ps : List Nat} (h : physRange c a n = some ps) (hk : k < n) :
    ps[k]? = some ((a + k) % memSize) := by
  simp [physRange_eq h, List.getElem?_range hk]

theorem physRange_length {c : Config} {a n : Nat} {ps : List Nat} (h : physRange c a n = some ps) : ps.length = n := by
  simp [physRange_eq h]

theorem physRange_lt {c : Config} {a n : Nat} {ps : List Nat} (h : physRange c a n = some ps) {p : Nat} (hp : p ∈ ps) :
    p < memSize := by
  rw [physRange_eq h] at hp
  obtain ⟨k, -, rfl⟩ := List.mem_map.mp hp
  exact Nat.mod_lt _ (by decide)

/-- The cells of an access of at most 4096 bytes are distinct. -/
theorem physRange_nodup {c : Config} {a n : Nat} {ps : List Nat} (hn : n ≤ memSize) (h : physRange c a n = some ps) :
    ps.Nodup := by
  rw [physRange_eq h]
  refine List.Nodup.map_on (fun i hi j hj e => ?_) List.nodup_range
  simp only [List.mem_range, memSize] at hi hj hn e
  omega

theorem physRange_wrap {c : Config} (h : c.addrMode = .wrap) (a n : Nat) : ∃ ps, physRange c a n = some ps := by
  induction n generalizing a with
  | zero => exact ⟨[], rfl⟩
  | succ n ih =>
    obtain ⟨ps, hps⟩ := ih (a + 1)
    exact ⟨a % memSize :: ps, by simp [physRange, phys, h, hps]⟩

/-- In Fatal mode an access succeeds exactly when its last address is below 4096. -/
theorem physRange_fatal_isSome {c : Config} (h : c.addrMode = .fatal) (a n : Nat) :
    (physRange c a n).isSome ↔ n = 0 ∨ a + n ≤ memSize := by
  induction n generalizing a with
  | zero => simp [physRange]
  | succ n ih =>
    have ih' := ih (a + 1)
    have size : memSize = 4096 := rfl
    simp only [physRange, phys, h]
    by_cases ha : a < memSize
    · rw [if_pos ha]
      cases hq : physRange c (a + 1) n with
      | none => simp [hq] at ih'; simp; omega
      | some qs => simp [hq] at ih'; simp; omega
    · rw [if_neg ha]; simp; omega

/-! ### Loads and stores -/

theorem loadBytes_ok {s : State} {a n : Nat} {ps : List Nat} (h : physRange s.cfg a n = some ps) :
    loadBytes s a n = .ok (ps.map (readCell s)) := by simp [loadBytes, h]

theorem loadBytes_error {s : State} {a n : Nat} (h : physRange s.cfg a n = none) :
    loadBytes s a n = .error .addressOutOfRange := by simp [loadBytes, h]

theorem storeBytes_ok {s : State} {a : Nat} {bs : List Byte} {ps : List Nat} (h : physRange s.cfg a bs.length = some ps) :
    storeBytes s a bs = .ok (writeCells s (ps.zip bs)) := by simp [storeBytes, h]

theorem storeBytes_error {s : State} {a : Nat} {bs : List Byte} (h : physRange s.cfg a bs.length = none) :
    storeBytes s a bs = .error .addressOutOfRange := by simp [storeBytes, h]

/-- Everything a store can do: it changes memory only, keeps the canonical form, and leaves every other cell alone. -/
theorem storeBytes_spec {s t : State} {a : Nat} {bs : List Byte} (h : storeBytes s a bs = .ok t) :
    ∃ ps, physRange s.cfg a bs.length = some ps ∧ t = { s with mem := t.mem } ∧
      (∀ r, r ∉ ps → readCell t r = readCell s r) ∧ (Memory.wf s.cfg s.mem → Memory.wf s.cfg t.mem) := by
  unfold storeBytes at h
  split at h
  · rename_i ps hps
    cases h
    refine ⟨ps, hps, writeCells_eq _ _, fun r hr => readCell_writeCells_ne _ _ _ ?_, fun hw => writeCells_wf _ _ hw ?_⟩
    · intro pb hpb e
      exact hr (e ▸ (List.of_mem_zip hpb).1)
    · intro pb hpb
      exact physRange_lt hps (List.of_mem_zip hpb).1
  · cases h

/-- The bytes a store of at most 4096 bytes leaves. -/
theorem storeBytes_bytes {s t : State} {a : Nat} {bs : List Byte} (hw : Memory.wf s.cfg s.mem)
    (hl : bs.length ≤ memSize) (h : storeBytes s a bs = .ok t) (k : Nat) (hk : k < bs.length) :
    readCell t ((a + k) % memSize) = bs[k] := by
  unfold storeBytes at h
  split at h
  · rename_i ps hps
    cases h
    have hlen := physRange_length hps
    refine readCell_writeCells_mem _ s hw (fun pb hpb => physRange_lt hps (List.of_mem_zip hpb).1) ?_ ?_
    · rw [List.map_fst_zip (by omega)]
      exact physRange_nodup hl hps
    · rw [List.mem_iff_getElem]
      refine ⟨k, by simp [hlen, hk], ?_⟩
      simp [physRange_eq hps]
  · cases h

end Sys2Proof.Machine
end

