-- ==== Sys2Proof/Laws/Ops.lean ====
section
/-! SUPPORT. The other shared operations: halts, the call stack, fetch, the register-and-flag writes. -/

namespace Sys2Proof.Machine

@[simp] theorem complete_ok (s t : State) : complete s (.ok t) = .next t := rfl
@[simp] theorem complete_error (s : State) (r : HaltReason) : complete s (.error r) = .next (raiseHalt r s) := rfl

/-- An instruction ends in its result, or in a halt of the state it began in. -/
theorem complete_cases {s t : State} {r : Except HaltReason State} (h : complete s r = .next t) :
    r = .ok t ∨ ∃ e, r = .error e ∧ t = raiseHalt e s := by
  cases r with
  | ok u => left; simpa using h
  | error e => right; exact ⟨e, rfl, by simpa using h.symm⟩

theorem complete_next (s : State) (r : Except HaltReason State) : ∃ t, complete s r = .next t := by
  cases r <;> simp

theorem push_ok {s : State} (h : s.stack.length < 16) (w : Word) : push s w = .ok { s with stack := s.stack ++ [w] } := by
  simp [push, h]

theorem push_full {s : State} (h : ¬ s.stack.length < 16) (w : Word) : push s w = .error .stackOverflow := by
  simp [push, h]

theorem pop_empty {s : State} (h : s.stack = []) : pop s = .error .stackUnderflow := by simp [pop, h]

theorem pop_concat {s : State} {ws : List Word} {w : Word} (h : s.stack = ws ++ [w]) :
    pop s = .ok (w, { s with stack := ws }) := by simp [pop, h]

/-- A pop succeeds exactly on a stack with a top. -/
theorem pop_ok_iff {s t : State} {w : Word} :
    pop s = .ok (w, t) ↔ s.stack = t.stack ++ [w] ∧ t = { s with stack := t.stack } := by
  constructor
  · intro h
    unfold pop at h
    split at h
    · rename_i u hu
      cases h
      exact ⟨(List.dropLast_append_getLast? _ hu).symm, rfl⟩
    · cases h
  · rintro ⟨h1, h2⟩
    rw [pop_concat h1, ← h2]

theorem fetch_ok {s : State} {p q : Nat} (hp : phys s.cfg s.pc.toNat = some p)
    (hq : phys s.cfg (s.pc.toNat + 1) = some q) : fetch s = .ok (bigEndian (readCell s p) (readCell s q)) := by
  simp [fetch, hp, hq]

theorem fetch_error {s : State} {r : HaltReason} (h : fetch s = .error r) : r = .addressOutOfRange := by
  unfold fetch at h
  split at h
  · cases h
  · cases h; rfl

/-! Meanings by the operation they end in. -/

theorem writeResult_eq (s : State) (x : RegIx) (b : Byte) :
    writeResult s x b = .next { s with v := (writeV s x b).v, pc := s.pc + 2 } := rfl

theorem writeResultAndFlag_eq (s : State) (x : RegIx) (b f : Byte) :
    writeResultAndFlag s x b f = .next { s with v := (writeVF (writeV s x b) f).v, pc := s.pc + 2 } := rfl

theorem incrementI_eq (s : State) (i0 : Word) (x : RegIx) :
    incrementI s i0 x = { s with iReg := (incrementI s i0 x).iReg } := by
  unfold incrementI; split <;> rfl

theorem drawRows_eq (s : State) (x y : RegIx) (rows : List Byte) :
    drawRows s x y rows = { s with fb := (drawRows s x y rows).fb, v := (drawRows s x y rows).v, renderPending := true } := rfl

/-! Result arithmetic, as operations on bytes (R140). -/

theorem wrappedSum_eq_add (a b : Byte) : wrappedSum a b = a + b := by
  apply BitVec.eq_of_toNat_eq; simp [wrappedSum]

theorem wrappedDiff_eq_sub (a b : Byte) : wrappedDiff a b = a - b := by
  apply BitVec.eq_of_toNat_eq
  have ha := a.isLt
  have hb := b.isLt
  rw [wrappedDiff, BitVec.toNat_ofInt, BitVec.toNat_sub]
  omega

theorem halved_eq_shift : ∀ v : Byte, halved v = v >>> 1 := by decide
theorem doubled_eq_shift : ∀ v : Byte, doubled v = v <<< 1 := by decide
theorem shiftedOutRight_eq_and : ∀ v : Byte, shiftedOutRight v = v &&& 1 := by decide
theorem shiftedOutLeft_eq_shift : ∀ v : Byte, shiftedOutLeft v = v >>> 7 := by decide

/-- A flag byte is 1 or 0. -/
theorem flagByte_eq (b : Bool) : flagByte b = if b = true then 1 else 0 := rfl

/-- What an instruction that writes a register and no flag answers. -/
theorem writeResult_writes (s : State) (x : RegIx) (b : Byte) :
    ∃ t, writeResult s x b = .next t ∧ WritesRegister s t x b :=
  ⟨_, rfl, readV_writeV_same s x b, fun _ h => readV_writeV_ne s b h, rfl⟩

/-- What an instruction that writes a register and then the flag answers. -/
theorem writeResultAndFlag_writes (s : State) (x : RegIx) (b f : Byte) :
    ∃ t, writeResultAndFlag s x b f = .next t ∧ WritesRegisterAndFlag s t x b f :=
  ⟨_, rfl, readV_writeVF_vf _ f, fun h => (readV_writeVF_ne _ f h).trans (readV_writeV_same s x b),
    fun _ h h' => (readV_writeVF_ne _ f h').trans (readV_writeV_ne s b h), rfl⟩

end Sys2Proof.Machine
end

