-- ==== Sys2Proof/Laws/Display.lean ====
section
/-! SUPPORT. Pixels of the framebuffer (R31, R212). -/

namespace Sys2Proof.Machine

/-- Toggling pixel (x, y) flips it and no other. -/
theorem pixel_togglePixel (f : Framebuffer) {x y x' y' : Nat} (hy : y < fbHeight) (hx' : x' < fbWidth)
    (hy' : y' < fbHeight) :
    pixel (togglePixel f x y) x' y' = (pixel f x' y' ^^ decide (x' = x ∧ y' = y)) := by
  simp only [fbWidth, fbHeight] at hy hx' hy'
  simp only [pixel, togglePixel, hy, hy', dif_pos]
  by_cases h : y' = y
  · subst h
    simp [hx', eq_comm]
  · rw [Vector.getElem_set_ne _ _ (Ne.symm h)]
    simp [h]

@[simp] theorem pixel_blankFramebuffer (x y : Nat) : pixel blankFramebuffer x y = false := by
  simp [pixel, blankFramebuffer]

/-- Two framebuffers with the same pixels are equal. -/
theorem fb_ext {f g : Framebuffer} (h : ∀ x < fbWidth, ∀ y < fbHeight, pixel f x y = pixel g x y) : f = g := by
  ext y hy x hx
  simpa [pixel, hy, ← BitVec.getLsbD_eq_getElem] using h x hx y hy

/-- Where a sprite row lands: in the grid, on the row `y`. -/
theorem mem_rowPixels {x0 y : Nat} {row : Byte} {p : Nat × Nat} :
    p ∈ rowPixels x0 y row ↔ ∃ c < 8, spriteBit row c = true ∧ p = ((x0 + c) % fbWidth, y % fbHeight) := by
  simp only [rowPixels, List.mem_map, List.mem_filter, List.mem_range]
  constructor
  · rintro ⟨c, ⟨h1, h2⟩, rfl⟩; exact ⟨c, h1, h2, rfl⟩
  · rintro ⟨c, h1, h2, rfl⟩; exact ⟨c, ⟨h1, h2⟩, rfl⟩

/-- Where a sprite lands. -/
theorem mem_spritePixels {x0 y0 : Nat} {rows : List Byte} {p : Nat × Nat} :
    p ∈ spritePixels x0 y0 rows ↔
      ∃ r c, ∃ h : r < rows.length, c < 8 ∧ spriteBit rows[r] c = true ∧
        p = ((x0 + c) % fbWidth, (y0 + r) % fbHeight) := by
  induction rows generalizing y0 with
  | nil => simp [spritePixels]
  | cons row rows ih =>
    simp only [spritePixels, List.mem_append, mem_rowPixels, ih]
    constructor
    · rintro (⟨c, h1, h2, rfl⟩ | ⟨r, c, h, h1, h2, rfl⟩)
      · exact ⟨0, c, by simp, h1, by simpa using h2, rfl⟩
      · exact ⟨r + 1, c, by simpa using h, h1, by simpa using h2, by rw [Nat.add_assoc, Nat.add_comm 1]⟩
    · rintro ⟨r, c, h, h1, h2, rfl⟩
      cases r with
      | zero => exact Or.inl ⟨c, h1, by simpa using h2, rfl⟩
      | succ r =>
        exact Or.inr ⟨r, c, by simpa using h, h1, by simpa using h2, by rw [Nat.add_assoc, Nat.add_comm 1]⟩

/-- Everything that toggling distinct pixels in turn can do: each of them is flipped, no other, and a collision is noted
exactly when one of them was on before. -/
theorem foldl_drawPixel (ps : List (Nat × Nat)) (acc : Framebuffer × Bool) (hd : ps.Nodup)
    (hb : ∀ p ∈ ps, p.1 < fbWidth ∧ p.2 < fbHeight) :
    (∀ x y, x < fbWidth → y < fbHeight →
      pixel (ps.foldl drawPixel acc).1 x y = (pixel acc.1 x y ^^ decide ((x, y) ∈ ps))) ∧
    ((ps.foldl drawPixel acc).2 = true ↔ acc.2 = true ∨ ∃ p ∈ ps, pixel acc.1 p.1 p.2 = true) := by
  induction ps generalizing acc with
  | nil => simp
  | cons p ps ih =>
    obtain ⟨hp, hd⟩ := List.nodup_cons.mp hd
    have hpb := hb p (by simp)
    have hb' : ∀ q ∈ ps, q.1 < fbWidth ∧ q.2 < fbHeight := fun q hq => hb q (by simp [hq])
    obtain ⟨ih1, ih2⟩ := ih (drawPixel acc p) hd hb'
    have toggled : ∀ x y, x < fbWidth → y < fbHeight →
        pixel (drawPixel acc p).1 x y = (pixel acc.1 x y ^^ decide ((x, y) = p)) := by
      intro x y hx hy
      simp only [drawPixel]
      rw [pixel_togglePixel _ hpb.2 hx hy]
      simp [Prod.ext_iff]
    constructor
    · intro x y hx hy
      rw [List.foldl_cons, ih1 x y hx hy, toggled x y hx hy]
      by_cases h : (x, y) = p
      · subst h; simp [hp]
      · simp [h]
    · rw [List.foldl_cons, ih2]
      have other : ∀ q ∈ ps, pixel (drawPixel acc p).1 q.1 q.2 = pixel acc.1 q.1 q.2 := by
        intro q hq
        rw [toggled _ _ (hb' q hq).1 (hb' q hq).2]
        have : (q.1, q.2) ≠ p := fun h => hp (h ▸ hq)
        simp [this]
      constructor
      · rintro (h | ⟨q, hq, h⟩)
        · simp only [drawPixel, Bool.or_eq_true] at h
          rcases h with h | h
          · exact Or.inl h
          · exact Or.inr ⟨p, by simp, h⟩
        · exact Or.inr ⟨q, by simp [hq], by rw [← other q hq]; exact h⟩
      · rintro (h | ⟨q, hq, h⟩)
        · exact Or.inl (by simp [drawPixel, h])
        · rcases List.mem_cons.mp hq with rfl | hq
          · exact Or.inl (by simp [drawPixel, h])
          · exact Or.inr ⟨q, hq, by rw [other q hq]; exact h⟩

theorem spritePixels_lt {x0 y0 : Nat} {rows : List Byte} {p : Nat × Nat} (h : p ∈ spritePixels x0 y0 rows) :
    p.1 < fbWidth ∧ p.2 < fbHeight := by
  obtain ⟨r, c, _, -, -, rfl⟩ := mem_spritePixels.mp h
  exact ⟨Nat.mod_lt _ (by decide), Nat.mod_lt _ (by decide)⟩

end Sys2Proof.Machine
end

