-- ==== Sys2Proof/Laws/Exec.lean ====
section
/-! SUPPORT. What the meanings that can halt answer, case by case, and what any instruction can do to the configuration,
the engine state, the stack and memory. -/

namespace Sys2Proof.Machine

/-! ### The meanings that can halt -/

theorem execRet_ok {s : State} {ws : List Word} {w : Word} (h : s.stack = ws ++ [w]) :
    execRet s = .next { s with stack := ws, pc := w } := by
  simp [execRet, pop_concat h, Except.map, writePC]

theorem execRet_empty {s : State} (h : s.stack = []) : execRet s = .next (raiseHalt .stackUnderflow s) := by
  simp [execRet, pop_empty h, Except.map]

theorem execCall_ok {s : State} (h : s.stack.length < 16) (nnn : BitVec 12) :
    execCall nnn s = .next { s with stack := s.stack ++ [s.pc + 2], pc := zext16 nnn } := by
  simp [execCall, push_ok h, Except.map, writePC]

theorem execCall_full {s : State} (h : ¬ s.stack.length < 16) (nnn : BitVec 12) :
    execCall nnn s = .next (raiseHalt .stackOverflow s) := by
  simp [execCall, push_full h, Except.map]

theorem execDrw_ok {s : State} {x y : RegIx} {n : BitVec 4} {ps : List Nat}
    (h : physRange s.cfg s.iReg.toNat n.toNat = some ps) :
    execDrw x y n s = .next (advance (drawRows s x y (ps.map (readCell s)))) := by
  simp [execDrw, loadBytes_ok h, Except.map]

theorem execDrw_halt {s : State} {x y : RegIx} {n : BitVec 4} (h : physRange s.cfg s.iReg.toNat n.toNat = none) :
    execDrw x y n s = .next (raiseHalt .addressOutOfRange s) := by
  simp [execDrw, loadBytes_error h, Except.map]

theorem execLdVxMem_ok {s : State} {x : RegIx} {ps : List Nat}
    (h : physRange s.cfg s.iReg.toNat (x.toNat + 1) = some ps) :
    execLdVxMem x s = .next (advance (incrementI (writeRegsFrom s 0 (ps.map (readCell s))) s.iReg x)) := by
  simp [execLdVxMem, loadBytes_ok h, Except.map]

theorem execLdVxMem_halt {s : State} {x : RegIx} (h : physRange s.cfg s.iReg.toNat (x.toNat + 1) = none) :
    execLdVxMem x s = .next (raiseHalt .addressOutOfRange s) := by
  simp [execLdVxMem, loadBytes_error h, Except.map]

@[simp] theorem regsUpTo_length (s : State) (x : RegIx) : (regsUpTo s x).length = x.toNat + 1 := by simp [regsUpTo]
@[simp] theorem bcdDigits_length (v : Byte) : (bcdDigits v).length = 3 := rfl

theorem execLdMemVx_ok {s : State} {x : RegIx} {ps : List Nat}
    (h : physRange s.cfg s.iReg.toNat (x.toNat + 1) = some ps) :
    execLdMemVx x s = .next (advance (incrementI (writeCells s (ps.zip (regsUpTo s x))) s.iReg x)) := by
  rw [← regsUpTo_length s] at h
  simp [execLdMemVx, storeBytes_ok h, Except.map]

theorem execLdMemVx_halt {s : State} {x : RegIx} (h : physRange s.cfg s.iReg.toNat (x.toNat + 1) = none) :
    execLdMemVx x s = .next (raiseHalt .addressOutOfRange s) := by
  rw [← regsUpTo_length s] at h
  simp [execLdMemVx, storeBytes_error h, Except.map]

theorem execLdBVx_ok {s : State} {x : RegIx} {ps : List Nat} (h : physRange s.cfg s.iReg.toNat 3 = some ps) :
    execLdBVx x s = .next (advance (writeCells s (ps.zip (bcdDigits (readV s x))))) := by
  rw [← bcdDigits_length (readV s x)] at h
  simp [execLdBVx, storeBytes_ok h, Except.map]

theorem execLdBVx_halt {s : State} {x : RegIx} (h : physRange s.cfg s.iReg.toNat 3 = none) :
    execLdBVx x s = .next (raiseHalt .addressOutOfRange s) := by
  rw [← bcdDigits_length (readV s x)] at h
  simp [execLdBVx, storeBytes_error h, Except.map]

/-- An access fails only in Fatal mode. -/
theorem fatal_of_physRange_none {c : Config} {a n : Nat} (h : physRange c a n = none) : c.addrMode = .fatal := by
  cases hm : c.addrMode with
  | fatal => rfl
  | wrap => obtain ⟨ps, hps⟩ := physRange_wrap hm a n; simp [hps] at h

/-- An access has cells exactly when it is in range (R52, R53). -/
theorem physRange_isSome_iff {c : Config} {a n : Nat} : (physRange c a n).isSome ↔ fitsMemory c a n := by
  unfold fitsMemory
  cases hm : c.addrMode with
  | wrap => obtain ⟨ps, hps⟩ := physRange_wrap hm a n; simp [hps]
  | fatal => simp [physRange_fatal_isSome hm]

theorem physRange_of_fits {c : Config} {a n : Nat} (h : fitsMemory c a n) : ∃ ps, physRange c a n = some ps :=
  Option.isSome_iff_exists.mp (physRange_isSome_iff.mpr h)

theorem physRange_none_of_not_fits {c : Config} {a n : Nat} (h : ¬ fitsMemory c a n) : physRange c a n = none := by
  rw [← Option.not_isSome_iff_eq_none, physRange_isSome_iff]; exact h

/-! ### What any instruction can do -/

/-- Every instruction in every state answers a next state. -/
theorem exec_answers (i : Instr) (s : State) : ∃ t, exec i s = .next t := by
  cases i <;> first | exact ⟨_, rfl⟩ | exact complete_next _ _

/-- An instruction halts the state it began in, for a reason of its own, or completes: it then keeps the configuration,
enters no engine state but FX0A's wait, keeps a stack of at most 16 entries so, and keeps memory canonical. -/
theorem exec_cases {i : Instr} {s t : State} (h : exec i s = .next t) :
    (∃ r, t = raiseHalt r s ∧
      (r = .stackOverflow ∨ r = .stackUnderflow ∨ r = .addressOutOfRange ∧ s.cfg.addrMode = .fatal)) ∨
    (t.cfg = s.cfg ∧ (t.run = s.run ∨ ∃ x, i = .ldVxK x ∧ t.run = .waitingForKey x) ∧
      (s.stack.length ≤ 16 → t.stack.length ≤ 16) ∧ (Memory.wf s.cfg s.mem → Memory.wf s.cfg t.mem)) := by
  have outOfRange : ∀ {a n : Nat}, physRange s.cfg a n = none → ∃ r, raiseHalt .addressOutOfRange s = raiseHalt r s ∧
      (r = .stackOverflow ∨ r = .stackUnderflow ∨ r = .addressOutOfRange ∧ s.cfg.addrMode = .fatal) :=
    fun hn => ⟨_, rfl, Or.inr (Or.inr ⟨rfl, fatal_of_physRange_none hn⟩)⟩
  have storeWf : ∀ {a n : Nat} {ps : List Nat} (bs : List Byte), physRange s.cfg a n = some ps →
      Memory.wf s.cfg s.mem → Memory.wf s.cfg (writeCells s (ps.zip bs)).mem :=
    fun bs hps hw => writeCells_wf _ _ hw fun pb hpb => physRange_lt hps (List.of_mem_zip hpb).1
  cases i with
  | ret =>
    rcases List.eq_nil_or_concat s.stack with hs | ⟨ws, w, hs⟩
    · cases (execRet_empty hs).symm.trans h
      exact Or.inl ⟨_, rfl, Or.inr (Or.inl rfl)⟩
    · rw [List.concat_eq_append] at hs
      cases (execRet_ok hs).symm.trans h
      refine Or.inr ⟨rfl, Or.inl rfl, fun hl => ?_, id⟩
      simp [hs] at hl
      simp; omega
  | call nnn =>
    by_cases hl : s.stack.length < 16
    · cases (execCall_ok hl nnn).symm.trans h
      exact Or.inr ⟨rfl, Or.inl rfl, fun _ => by simp; omega, id⟩
    · cases (execCall_full hl nnn).symm.trans h
      exact Or.inl ⟨_, rfl, Or.inl rfl⟩
  | drw x y n =>
    cases hp : physRange s.cfg s.iReg.toNat n.toNat with
    | none => cases (execDrw_halt hp).symm.trans h; exact Or.inl (outOfRange hp)
    | some ps => cases (execDrw_ok hp).symm.trans h; exact Or.inr ⟨rfl, Or.inl rfl, id, id⟩
  | ldVxMem x =>
    cases hp : physRange s.cfg s.iReg.toNat (x.toNat + 1) with
    | none => cases (execLdVxMem_halt hp).symm.trans h; exact Or.inl (outOfRange hp)
    | some ps =>
      cases (execLdVxMem_ok hp).symm.trans h
      rw [incrementI_eq, writeRegsFrom_eq]
      exact Or.inr ⟨rfl, Or.inl rfl, id, id⟩
  | ldMemVx x =>
    cases hp : physRange s.cfg s.iReg.toNat (x.toNat + 1) with
    | none => cases (execLdMemVx_halt hp).symm.trans h; exact Or.inl (outOfRange hp)
    | some ps =>
      cases (execLdMemVx_ok hp).symm.trans h
      have hw := storeWf (regsUpTo s x) hp
      rw [writeCells_eq] at hw ⊢
      rw [incrementI_eq]
      exact Or.inr ⟨rfl, Or.inl rfl, id, hw⟩
  | ldBVx x =>
    cases hp : physRange s.cfg s.iReg.toNat 3 with
    | none => cases (execLdBVx_halt hp).symm.trans h; exact Or.inl (outOfRange hp)
    | some ps =>
      cases (execLdBVx_ok hp).symm.trans h
      have hw := storeWf (bcdDigits (readV s x)) hp
      rw [writeCells_eq] at hw ⊢
      exact Or.inr ⟨rfl, Or.inl rfl, id, hw⟩
  | addIVx x =>
    cases h
    right
    by_cases hq : s.cfg.addISetsVf = true <;> simp [hq]
  | ldVxK x => cases h; exact Or.inr ⟨rfl, Or.inr ⟨x, rfl, rfl⟩, id, id⟩
  | _ => cases h; exact Or.inr ⟨rfl, Or.inl rfl, id, id⟩

/-! ### What a step can do -/

/-- A step of a running engine: a fetch that is out of range, an unknown word, or an instruction. -/
theorem step_running_cases {s t : State} (hr : s.run = .running) (h : step s = .next t) :
    (fetch s = .error .addressOutOfRange ∧ s.cfg.addrMode = .fatal ∧ t = raiseHalt .addressOutOfRange s) ∨
    (∃ op e, fetch s = .ok op ∧ decode s.cfg op = .rejected e ∧ t = unknownOpcode op s) ∨
    (∃ op i, fetch s = .ok op ∧ decode s.cfg op = .instr i ∧ exec i s = .next t) := by
  simp only [step, engineStep, hr, stepRunning] at h
  cases hf : fetch s with
  | error r =>
    rw [hf] at h
    cases h
    cases fetch_error hf
    refine Or.inl ⟨rfl, ?_, rfl⟩
    cases hm : s.cfg.addrMode with
    | fatal => rfl
    | wrap => simp [fetch, phys, hm] at hf
  | ok op =>
    rw [hf] at h
    right
    cases hd : decode s.cfg op with
    | instr i => simp only [hd] at h; exact Or.inr ⟨op, i, rfl, hd, h⟩
    | rejected e => simp only [hd] at h; cases h; exact Or.inl ⟨op, e, rfl, hd, rfl⟩

theorem step_waiting {s : State} {x : RegIx} (hr : s.run = .waitingForKey x) : step s = .next (stepWaiting x s) := by
  simp [step, engineStep, hr]

theorem step_halted {s : State} {r : HaltReason} (hr : s.run = .halted r) : step s = .next s := by
  simp [step, engineStep, hr]

/-- Fetching fails exactly when the two bytes at PC are not in range. -/
theorem fetch_ok_iff {s : State} : (∃ op, fetch s = .ok op) ↔ fitsMemory s.cfg s.pc.toNat 2 := by
  rw [← physRange_isSome_iff]
  simp only [fetch, physRange]
  cases phys s.cfg s.pc.toNat <;> cases phys s.cfg (s.pc.toNat + 1) <;> simp

/-! ### Program load -/

/-- Everything a load can do. -/
theorem loadImage_ok {b : List Byte} {s t : State} (h : loadImage b s = .ok t) :
    b.length ≤ 3584 ∧ t = writeCells (resetMachine s) (imageCells b) := by
  unfold loadImage at h
  split at h
  · cases h
  · rename_i hl
    cases h
    exact ⟨Nat.le_of_not_gt hl, rfl⟩

theorem imageCells_range {b : List Byte} {pb : Nat × Byte} (h : pb ∈ imageCells b) :
    0x200 ≤ pb.1 ∧ pb.1 < 0x200 + b.length := by
  simpa [List.mem_range'_1] using (List.of_mem_zip h).1

end Sys2Proof.Machine
end

