-- ==== Sys2Proof/Laws/PerInstr.lean ====
section
/-! SUPPORT. Per instruction: its word has a row of the table under its mnemonic, which the word matches and which
builds the instruction back from the word's fields (R82, R84). -/

namespace Sys2Proof.Laws.RowOf

/-- A word whose masked value is known matches the row of that value. -/
theorem matches_of_mask {m : String} {bits mask w v : Word} {build : Word → Instr} (h : w &&& mask = v) (hv : v = bits) :
    (OpcodeRow.mk m bits mask build).matchesWord w = true := by
  simp [OpcodeRow.matchesWord, h, hv]

/-- Some row of the opcode table stands under the name of `i`, matches the word of `i`, and builds `i` from it. -/
def Statement (i : Instr) : Prop :=
  ∃ r ∈ opcodeTable, r.mnemonic = i.mnemonic ∧ r.matchesWord (encode i) = true ∧ r.build (encode i) = i

theorem cls : Statement .cls :=
  ⟨⟨"CLS", 0x00E0, 0xFFFF, fun _ => .cls⟩, by simp [opcodeTable, opcodeRowsLow, opcodeRowsAlu, opcodeRowsHigh], rfl, by decide, rfl⟩
theorem ret : Statement .ret :=
  ⟨⟨"RET", 0x00EE, 0xFFFF, fun _ => .ret⟩, by simp [opcodeTable, opcodeRowsLow, opcodeRowsAlu, opcodeRowsHigh], rfl, by decide, rfl⟩
theorem jp (nnn : BitVec 12) : Statement (.jp nnn) :=
  ⟨⟨"JP", 0x1000, 0xF000, fun op => .jp (fieldNNN op)⟩, by simp [opcodeTable, opcodeRowsLow, opcodeRowsAlu, opcodeRowsHigh], rfl, matches_of_mask (formatA_mask 0x1 nnn) (by decide), by simp [encode]⟩
theorem call (nnn : BitVec 12) : Statement (.call nnn) :=
  ⟨⟨"CALL", 0x2000, 0xF000, fun op => .call (fieldNNN op)⟩, by simp [opcodeTable, opcodeRowsLow, opcodeRowsAlu, opcodeRowsHigh], rfl, matches_of_mask (formatA_mask 0x2 nnn) (by decide), by simp [encode]⟩
theorem seImm (x : RegIx) (nn : Byte) : Statement (.seImm x nn) :=
  ⟨⟨"SE_IMM", 0x3000, 0xF000, fun op => .seImm (fieldX op) (fieldNN op)⟩, by simp [opcodeTable, opcodeRowsLow, opcodeRowsAlu, opcodeRowsHigh], rfl, matches_of_mask (formatXNN_classMask 0x3 x nn) (by decide), by simp [encode]⟩
theorem sneImm (x : RegIx) (nn : Byte) : Statement (.sneImm x nn) :=
  ⟨⟨"SNE_IMM", 0x4000, 0xF000, fun op => .sneImm (fieldX op) (fieldNN op)⟩, by simp [opcodeTable, opcodeRowsLow, opcodeRowsAlu, opcodeRowsHigh], rfl, matches_of_mask (formatXNN_classMask 0x4 x nn) (by decide), by simp [encode]⟩
theorem seReg (x y : RegIx) : Statement (.seReg x y) :=
  ⟨⟨"SE_REG", 0x5000, 0xF00F, fun op => .seReg (fieldX op) (fieldY op)⟩, by simp [opcodeTable, opcodeRowsLow, opcodeRowsAlu, opcodeRowsHigh], rfl, matches_of_mask (formatXYN_mask 0x5 x y 0x0) (by decide), by simp [encode]⟩
theorem ldImm (x : RegIx) (nn : Byte) : Statement (.ldImm x nn) :=
  ⟨⟨"LD_IMM", 0x6000, 0xF000, fun op => .ldImm (fieldX op) (fieldNN op)⟩, by simp [opcodeTable, opcodeRowsLow, opcodeRowsAlu, opcodeRowsHigh], rfl, matches_of_mask (formatXNN_classMask 0x6 x nn) (by decide), by simp [encode]⟩
theorem addImm (x : RegIx) (nn : Byte) : Statement (.addImm x nn) :=
  ⟨⟨"ADD_IMM", 0x7000, 0xF000, fun op => .addImm (fieldX op) (fieldNN op)⟩, by simp [opcodeTable, opcodeRowsLow, opcodeRowsAlu, opcodeRowsHigh], rfl, matches_of_mask (formatXNN_classMask 0x7 x nn) (by decide), by simp [encode]⟩
theorem ldReg (x y : RegIx) : Statement (.ldReg x y) :=
  ⟨⟨"LD_REG", 0x8000, 0xF00F, fun op => .ldReg (fieldX op) (fieldY op)⟩, by simp [opcodeTable, opcodeRowsLow, opcodeRowsAlu, opcodeRowsHigh], rfl, matches_of_mask (formatXYN_mask 0x8 x y 0x0) (by decide), by simp [encode]⟩
theorem orReg (x y : RegIx) : Statement (.orReg x y) :=
  ⟨⟨"OR", 0x8001, 0xF00F, fun op => .orReg (fieldX op) (fieldY op)⟩, by simp [opcodeTable, opcodeRowsLow, opcodeRowsAlu, opcodeRowsHigh], rfl, matches_of_mask (formatXYN_mask 0x8 x y 0x1) (by decide), by simp [encode]⟩
theorem andReg (x y : RegIx) : Statement (.andReg x y) :=
  ⟨⟨"AND", 0x8002, 0xF00F, fun op => .andReg (fieldX op) (fieldY op)⟩, by simp [opcodeTable, opcodeRowsLow, opcodeRowsAlu, opcodeRowsHigh], rfl, matches_of_mask (formatXYN_mask 0x8 x y 0x2) (by decide), by simp [encode]⟩
theorem xorReg (x y : RegIx) : Statement (.xorReg x y) :=
  ⟨⟨"XOR", 0x8003, 0xF00F, fun op => .xorReg (fieldX op) (fieldY op)⟩, by simp [opcodeTable, opcodeRowsLow, opcodeRowsAlu, opcodeRowsHigh], rfl, matches_of_mask (formatXYN_mask 0x8 x y 0x3) (by decide), by simp [encode]⟩
theorem addReg (x y : RegIx) : Statement (.addReg x y) :=
  ⟨⟨"ADD_REG", 0x8004, 0xF00F, fun op => .addReg (fieldX op) (fieldY op)⟩, by simp [opcodeTable, opcodeRowsLow, opcodeRowsAlu, opcodeRowsHigh], rfl, matches_of_mask (formatXYN_mask 0x8 x y 0x4) (by decide), by simp [encode]⟩
theorem sub (x y : RegIx) : Statement (.sub x y) :=
  ⟨⟨"SUB", 0x8005, 0xF00F, fun op => .sub (fieldX op) (fieldY op)⟩, by simp [opcodeTable, opcodeRowsLow, opcodeRowsAlu, opcodeRowsHigh], rfl, matches_of_mask (formatXYN_mask 0x8 x y 0x5) (by decide), by simp [encode]⟩
theorem shr (x y : RegIx) : Statement (.shr x y) :=
  ⟨⟨"SHR", 0x8006, 0xF00F, fun op => .shr (fieldX op) (fieldY op)⟩, by simp [opcodeTable, opcodeRowsLow, opcodeRowsAlu, opcodeRowsHigh], rfl, matches_of_mask (formatXYN_mask 0x8 x y 0x6) (by decide), by simp [encode]⟩
theorem subn (x y : RegIx) : Statement (.subn x y) :=
  ⟨⟨"SUBN", 0x8007, 0xF00F, fun op => .subn (fieldX op) (fieldY op)⟩, by simp [opcodeTable, opcodeRowsLow, opcodeRowsAlu, opcodeRowsHigh], rfl, matches_of_mask (formatXYN_mask 0x8 x y 0x7) (by decide), by simp [encode]⟩
theorem shl (x y : RegIx) : Statement (.shl x y) :=
  ⟨⟨"SHL", 0x800E, 0xF00F, fun op => .shl (fieldX op) (fieldY op)⟩, by simp [opcodeTable, opcodeRowsLow, opcodeRowsAlu, opcodeRowsHigh], rfl, matches_of_mask (formatXYN_mask 0x8 x y 0xE) (by decide), by simp [encode]⟩
theorem sneReg (x y : RegIx) : Statement (.sneReg x y) :=
  ⟨⟨"SNE_REG", 0x9000, 0xF00F, fun op => .sneReg (fieldX op) (fieldY op)⟩, by simp [opcodeTable, opcodeRowsLow, opcodeRowsAlu, opcodeRowsHigh], rfl, matches_of_mask (formatXYN_mask 0x9 x y 0x0) (by decide), by simp [encode]⟩
theorem ldI (nnn : BitVec 12) : Statement (.ldI nnn) :=
  ⟨⟨"LD_I", 0xA000, 0xF000, fun op => .ldI (fieldNNN op)⟩, by simp [opcodeTable, opcodeRowsLow, opcodeRowsAlu, opcodeRowsHigh], rfl, matches_of_mask (formatA_mask 0xA nnn) (by decide), by simp [encode]⟩
theorem jpV0 (nnn : BitVec 12) : Statement (.jpV0 nnn) :=
  ⟨⟨"JP_V0", 0xB000, 0xF000, fun op => .jpV0 (fieldNNN op)⟩, by simp [opcodeTable, opcodeRowsLow, opcodeRowsAlu, opcodeRowsHigh], rfl, matches_of_mask (formatA_mask 0xB nnn) (by decide), by simp [encode]⟩
theorem rnd (x : RegIx) (nn : Byte) : Statement (.rnd x nn) :=
  ⟨⟨"RND", 0xC000, 0xF000, fun op => .rnd (fieldX op) (fieldNN op)⟩, by simp [opcodeTable, opcodeRowsLow, opcodeRowsAlu, opcodeRowsHigh], rfl, matches_of_mask (formatXNN_classMask 0xC x nn) (by decide), by simp [encode]⟩
theorem drw (x y : RegIx) (n : BitVec 4) : Statement (.drw x y n) :=
  ⟨⟨"DRW", 0xD000, 0xF000, fun op => .drw (fieldX op) (fieldY op) (fieldN op)⟩, by simp [opcodeTable, opcodeRowsLow, opcodeRowsAlu, opcodeRowsHigh], rfl, matches_of_mask (formatXYN_classMask 0xD x y n) (by decide), by simp [encode]⟩
theorem skp (x : RegIx) : Statement (.skp x) :=
  ⟨⟨"SKP", 0xE09E, 0xF0FF, fun op => .skp (fieldX op)⟩, by simp [opcodeTable, opcodeRowsLow, opcodeRowsAlu, opcodeRowsHigh], rfl, matches_of_mask (formatXNN_mask 0xE x 0x9E) (by decide), by simp [encode]⟩
theorem sknp (x : RegIx) : Statement (.sknp x) :=
  ⟨⟨"SKNP", 0xE0A1, 0xF0FF, fun op => .sknp (fieldX op)⟩, by simp [opcodeTable, opcodeRowsLow, opcodeRowsAlu, opcodeRowsHigh], rfl, matches_of_mask (formatXNN_mask 0xE x 0xA1) (by decide), by simp [encode]⟩
theorem ldVxDt (x : RegIx) : Statement (.ldVxDt x) :=
  ⟨⟨"LD_VX_DT", 0xF007, 0xF0FF, fun op => .ldVxDt (fieldX op)⟩, by simp [opcodeTable, opcodeRowsLow, opcodeRowsAlu, opcodeRowsHigh], rfl, matches_of_mask (formatXNN_mask 0xF x 0x07) (by decide), by simp [encode]⟩
theorem ldVxK (x : RegIx) : Statement (.ldVxK x) :=
  ⟨⟨"LD_VX_K", 0xF00A, 0xF0FF, fun op => .ldVxK (fieldX op)⟩, by simp [opcodeTable, opcodeRowsLow, opcodeRowsAlu, opcodeRowsHigh], rfl, matches_of_mask (formatXNN_mask 0xF x 0x0A) (by decide), by simp [encode]⟩
theorem ldDtVx (x : RegIx) : Statement (.ldDtVx x) :=
  ⟨⟨"LD_DT_VX", 0xF015, 0xF0FF, fun op => .ldDtVx (fieldX op)⟩, by simp [opcodeTable, opcodeRowsLow, opcodeRowsAlu, opcodeRowsHigh], rfl, matches_of_mask (formatXNN_mask 0xF x 0x15) (by decide), by simp [encode]⟩
theorem ldStVx (x : RegIx) : Statement (.ldStVx x) :=
  ⟨⟨"LD_ST_VX", 0xF018, 0xF0FF, fun op => .ldStVx (fieldX op)⟩, by simp [opcodeTable, opcodeRowsLow, opcodeRowsAlu, opcodeRowsHigh], rfl, matches_of_mask (formatXNN_mask 0xF x 0x18) (by decide), by simp [encode]⟩
theorem addIVx (x : RegIx) : Statement (.addIVx x) :=
  ⟨⟨"ADD_I_VX", 0xF01E, 0xF0FF, fun op => .addIVx (fieldX op)⟩, by simp [opcodeTable, opcodeRowsLow, opcodeRowsAlu, opcodeRowsHigh], rfl, matches_of_mask (formatXNN_mask 0xF x 0x1E) (by decide), by simp [encode]⟩
theorem ldFVx (x : RegIx) : Statement (.ldFVx x) :=
  ⟨⟨"LD_F_VX", 0xF029, 0xF0FF, fun op => .ldFVx (fieldX op)⟩, by simp [opcodeTable, opcodeRowsLow, opcodeRowsAlu, opcodeRowsHigh], rfl, matches_of_mask (formatXNN_mask 0xF x 0x29) (by decide), by simp [encode]⟩
theorem ldBVx (x : RegIx) : Statement (.ldBVx x) :=
  ⟨⟨"LD_B_VX", 0xF033, 0xF0FF, fun op => .ldBVx (fieldX op)⟩, by simp [opcodeTable, opcodeRowsLow, opcodeRowsAlu, opcodeRowsHigh], rfl, matches_of_mask (formatXNN_mask 0xF x 0x33) (by decide), by simp [encode]⟩
theorem ldMemVx (x : RegIx) : Statement (.ldMemVx x) :=
  ⟨⟨"LD_MEM_VX", 0xF055, 0xF0FF, fun op => .ldMemVx (fieldX op)⟩, by simp [opcodeTable, opcodeRowsLow, opcodeRowsAlu, opcodeRowsHigh], rfl, matches_of_mask (formatXNN_mask 0xF x 0x55) (by decide), by simp [encode]⟩
theorem ldVxMem (x : RegIx) : Statement (.ldVxMem x) :=
  ⟨⟨"LD_VX_MEM", 0xF065, 0xF0FF, fun op => .ldVxMem (fieldX op)⟩, by simp [opcodeTable, opcodeRowsLow, opcodeRowsAlu, opcodeRowsHigh], rfl, matches_of_mask (formatXNN_mask 0xF x 0x65) (by decide), by simp [encode]⟩

end Sys2Proof.Laws.RowOf
end

