-- ==== Sys2Proof/Tests/Slice0.lean ====
section
/-! SUPPORT. Tests. Every expected value is from 95_test_vectors.md (S, V and P numbers) or worked out by hand from the
rule named, and every word is written out from the bit patterns of 30_encoding.md R84. The last part shows, for each
statement with hypotheses, a concrete input that meets them. -/

namespace Sys2Proof.Tests

open Sys2Proof Sys2Proof.Machine

/-! ### Helpers -/

/-- The next state, if there is one. -/
def nextOf : Host.Outcome State Fault Refusal → Option State
  | .next t => some t
  | .fault _ => none
  | .refused _ => none

/-- The state after one step of `s` with the word `w` at its PC. -/
def ran (w : Word) (s : State) : Option State := nextOf (step (placeWord s w))

/-- What `f` shows of the state after one step of `s` with the word `w` at its PC. -/
def seen {α : Type} (w : Word) (s : State) (f : State → α) : Option α := (ran w s).map f

/-- The reset state with registers set. -/
def regs (l : List (RegIx × Byte)) : State := l.foldl (fun s p => writeV s p.1 p.2) State.reset

/-- `s` in another configuration. -/
def configured (s : State) (f : Config → Config) : State := { s with cfg := f s.cfg }

def fatal (c : Config) : Config := { c with addrMode := .fatal }
def strict (c : Config) : Config := { c with strictUnknown := true }
def shiftVy (c : Config) : Config := { c with shiftUsesVy := true }
def jumpVx (c : Config) : Config := { c with jumpOffsetUsesVx := true }
def incrementing (c : Config) : Config := { c with loadStoreIncrementsI := true }
def addIFlag (c : Config) : Config := { c with addISetsVf := true }
def noTimers (c : Config) : Config := { c with timerOps := false }

/-- `s` with I set. -/
def indexed (s : State) (i : Word) : State := writeI s i

/-- The key snapshot with exactly the keys of `l` pressed. -/
def keysDown (l : List Nat) : Vector Bool 16 := Vector.ofFn fun k => l.contains k.val

/-- The pixels of row `y` that are on, as column numbers. -/
def onInRow (s : State) (y : Nat) : List Nat := (List.range 64).filter fun x => pixel s.fb x y

/-- A framebuffer with exactly the pixels of `l` on. -/
def pixelsOn (l : List (Nat × Nat)) : Framebuffer := l.foldl (fun f p => togglePixel f p.1 p.2) blankFramebuffer

/-! ### Well-formedness: the one check, and a term it refuses for each instruction it is about (R87) -/

theorem test_wellFormed_default :
    ([.ldVxDt 1, .ldDtVx 1, .ldStVx 1, .cls, .drw 15 15 15] : List Instr).all (·.wellFormed defaultConfig) = true := by
  decide
theorem test_wellFormed_refuses_ldVxDt : (Instr.ldVxDt 1).wellFormed (noTimers defaultConfig) = false := by decide
theorem test_wellFormed_refuses_ldDtVx : (Instr.ldDtVx 1).wellFormed (noTimers defaultConfig) = false := by decide
theorem test_wellFormed_refuses_ldStVx : (Instr.ldStVx 1).wellFormed (noTimers defaultConfig) = false := by decide

/-! ### Decoding and encoding: a word of every row (R84) -/

theorem test_word_cls : decode defaultConfig 0x00E0 = .instr (.cls) ∧ encode (.cls) = 0x00E0 := by decide
theorem test_word_ret : decode defaultConfig 0x00EE = .instr (.ret) ∧ encode (.ret) = 0x00EE := by decide
theorem test_word_jp : decode defaultConfig 0x1234 = .instr (.jp 0x234) ∧ encode (.jp 0x234) = 0x1234 := by decide
theorem test_word_call : decode defaultConfig 0x2208 = .instr (.call 0x208) ∧ encode (.call 0x208) = 0x2208 := by decide
theorem test_word_seImm : decode defaultConfig 0x3342 = .instr (.seImm 3 0x42) ∧ encode (.seImm 3 0x42) = 0x3342 := by decide
theorem test_word_sneImm : decode defaultConfig 0x4F01 = .instr (.sneImm 15 0x01) ∧ encode (.sneImm 15 0x01) = 0x4F01 := by decide
theorem test_word_seReg : decode defaultConfig 0x5120 = .instr (.seReg 1 2) ∧ encode (.seReg 1 2) = 0x5120 := by decide
theorem test_word_ldImm : decode defaultConfig 0x6A02 = .instr (.ldImm 0xA 0x02) ∧ encode (.ldImm 0xA 0x02) = 0x6A02 := by decide
theorem test_word_addImm : decode defaultConfig 0x7A01 = .instr (.addImm 0xA 0x01) ∧ encode (.addImm 0xA 0x01) = 0x7A01 := by decide
theorem test_word_ldReg : decode defaultConfig 0x8120 = .instr (.ldReg 1 2) ∧ encode (.ldReg 1 2) = 0x8120 := by decide
theorem test_word_orReg : decode defaultConfig 0x8121 = .instr (.orReg 1 2) ∧ encode (.orReg 1 2) = 0x8121 := by decide
theorem test_word_andReg : decode defaultConfig 0x8122 = .instr (.andReg 1 2) ∧ encode (.andReg 1 2) = 0x8122 := by decide
theorem test_word_xorReg : decode defaultConfig 0x8123 = .instr (.xorReg 1 2) ∧ encode (.xorReg 1 2) = 0x8123 := by decide
theorem test_word_addReg : decode defaultConfig 0x8124 = .instr (.addReg 1 2) ∧ encode (.addReg 1 2) = 0x8124 := by decide
theorem test_word_sub : decode defaultConfig 0x8125 = .instr (.sub 1 2) ∧ encode (.sub 1 2) = 0x8125 := by decide
theorem test_word_shr : decode defaultConfig 0x8126 = .instr (.shr 1 2) ∧ encode (.shr 1 2) = 0x8126 := by decide
theorem test_word_subn : decode defaultConfig 0x8127 = .instr (.subn 1 2) ∧ encode (.subn 1 2) = 0x8127 := by decide
theorem test_word_shl : decode defaultConfig 0x812E = .instr (.shl 1 2) ∧ encode (.shl 1 2) = 0x812E := by decide
theorem test_word_sneReg : decode defaultConfig 0x9AB0 = .instr (.sneReg 0xA 0xB) ∧ encode (.sneReg 0xA 0xB) = 0x9AB0 := by decide
theorem test_word_ldI : decode defaultConfig 0xA234 = .instr (.ldI 0x234) ∧ encode (.ldI 0x234) = 0xA234 := by decide
theorem test_word_jpV0 : decode defaultConfig 0xB123 = .instr (.jpV0 0x123) ∧ encode (.jpV0 0x123) = 0xB123 := by decide
theorem test_word_rnd : decode defaultConfig 0xC3FF = .instr (.rnd 3 0xFF) ∧ encode (.rnd 3 0xFF) = 0xC3FF := by decide
theorem test_word_drw : decode defaultConfig 0xDABF = .instr (.drw 0xA 0xB 0xF) ∧ encode (.drw 0xA 0xB 0xF) = 0xDABF := by decide
theorem test_word_skp : decode defaultConfig 0xE19E = .instr (.skp 1) ∧ encode (.skp 1) = 0xE19E := by decide
theorem test_word_sknp : decode defaultConfig 0xE1A1 = .instr (.sknp 1) ∧ encode (.sknp 1) = 0xE1A1 := by decide
theorem test_word_ldVxDt : decode defaultConfig 0xF107 = .instr (.ldVxDt 1) ∧ encode (.ldVxDt 1) = 0xF107 := by decide
theorem test_word_ldVxK : decode defaultConfig 0xF30A = .instr (.ldVxK 3) ∧ encode (.ldVxK 3) = 0xF30A := by decide
theorem test_word_ldDtVx : decode defaultConfig 0xF015 = .instr (.ldDtVx 0) ∧ encode (.ldDtVx 0) = 0xF015 := by decide
theorem test_word_ldStVx : decode defaultConfig 0xF018 = .instr (.ldStVx 0) ∧ encode (.ldStVx 0) = 0xF018 := by decide
theorem test_word_addIVx : decode defaultConfig 0xF21E = .instr (.addIVx 2) ∧ encode (.addIVx 2) = 0xF21E := by decide
theorem test_word_ldFVx : decode defaultConfig 0xF029 = .instr (.ldFVx 0) ∧ encode (.ldFVx 0) = 0xF029 := by decide
theorem test_word_ldBVx : decode defaultConfig 0xFA33 = .instr (.ldBVx 0xA) ∧ encode (.ldBVx 0xA) = 0xFA33 := by decide
theorem test_word_ldMemVx : decode defaultConfig 0xF155 = .instr (.ldMemVx 1) ∧ encode (.ldMemVx 1) = 0xF155 := by decide
theorem test_word_ldVxMem : decode defaultConfig 0xFF65 = .instr (.ldVxMem 0xF) ∧ encode (.ldVxMem 0xF) = 0xFF65 := by decide

/-- V2, V3, V4, V5, V7, V8, V10: words that are no instruction. -/
theorem test_unknown_words : ([0x0000, 0x0123, 0x00E1, 0x00FF, 0x5121, 0x9AB1, 0x8128, 0x812C, 0x812F, 0xE19F, 0xF130,
    0xF175, 0xFFFF] : List Word).all (fun op => decode defaultConfig op = .rejected (.unknownOpcode op)) = true := by
  decide +kernel
/-- V9: without `TIMER_OPS`. -/
theorem test_timer_word_absent : decode (noTimers defaultConfig) 0xF107 = .rejected (.timerOpsAbsent 0xF107) := by decide
/-- R81: an instruction has two bytes. -/
theorem test_truncated : decodeBytes defaultConfig [0xA2] = (.rejected (.truncated 1), [0xA2]) := by decide
/-- R54: the high byte comes first. -/
theorem test_bytes : encodeBytes (.ldI 0x234) = [0xA2, 0x34] ∧
    decodeBytes defaultConfig [0xA2, 0x34, 0x12] = (.instr (.ldI 0x234), [0x12]) := by decide
theorem test_decodeTableWord : decodeTableWord 16 0xD125 = some (.drw 1 2 5) ∧ decodeTableWord 16 0x0000 = none := by
  decide

/-! ### Reset -/

theorem test_reset_inv : State.reset.Inv := by decide
/-- V144: the last glyph, and the cells about the font. -/
theorem test_reset_font : ([0x04F, 0x050, 0x09B, 0x09C, 0x09F, 0x0A0] : List Nat).map (readCell State.reset) =
    [0x00, 0xF0, 0xF0, 0x80, 0x80, 0x00] := by decide

/-! ### Fetch and the engine states -/

/-- V14: in Wrap mode the word at 0xFFF has its low byte at 0. -/
theorem test_fetch_wraps : seen 0x6007 { State.reset with pc := 0x0FFF } (fun t => (readV t 0, t.pc, readCell t 0)) =
    some (0x07, 0x1000 + 1, 0x07) := by decide
/-- V15, V140: the fetch check comes first. -/
theorem test_fetch_out_of_range :
    (nextOf (step (configured { State.reset with pc := 0x0FFF } fun c => strict (fatal c)))).map (fun t => (t.run, t.pc)) =
      some (.halted .addressOutOfRange, 0x0FFF) := by decide
/-- V17: an unknown word is logged and skipped. -/
theorem test_unknown_logged : (nextOf (step State.reset)).map (fun t => (t.diag, t.pc, t.run)) =
    some ([(0x0000, 0x200)], 0x202, .running) := by decide
/-- V18: an unknown word halts in strict mode. -/
theorem test_unknown_strict : seen 0x8008 (configured State.reset strict) (fun t => (t.run, t.pc, t.diag)) =
    some (.halted .unknownOpcode, 0x200, []) := by decide
/-- V126: a just-pressed key ends the wait. -/
theorem test_wait_ends : (nextOf (step (refreshKeys (keysDown [7])
    { State.reset with run := .waitingForKey 3 }))).map (fun t => (readV t 3, t.run, t.pc)) =
      some (7, .running, 0x200) := by decide
/-- V130: a key held over two refreshes does not. -/
theorem test_wait_goes_on : (nextOf (step (refreshKeys (keysDown [7]) (refreshKeys (keysDown [7])
    { State.reset with run := .waitingForKey 3 })))).map (fun t => (readV t 3, t.run)) =
      some (0, .waitingForKey 3) := by decide

/-! ### Control transfer -/

/-- V21: PC is not masked. -/
theorem test_jp : seen 0x1FFF State.reset (·.pc) = some 0x0FFF := by decide
/-- V24: the address after the call is pushed unmasked. -/
theorem test_call : seen 0x2300 { State.reset with pc := 0xFFE } (fun t => (t.stack, t.pc)) =
    some ([0x1000], 0x300) := by decide
/-- V25: the seventeenth call. -/
theorem test_call_overflow : seen 0x2400 { State.reset with stack := List.replicate 16 0x202 } (fun t =>
    (t.run, t.pc, t.stack.length)) = some (.halted .stackOverflow, 0x200, 16) := by decide
/-- V26: the top is the last entry. -/
theorem test_ret : seen 0x00EE { State.reset with stack := [0x202, 0x206] } (fun t => (t.pc, t.stack)) =
    some (0x206, [0x202]) := by decide
/-- V27. -/
theorem test_ret_underflow : seen 0x00EE State.reset (fun t => (t.run, t.pc)) = some (.halted .stackUnderflow, 0x200) := by decide
/-- V28. -/
theorem test_seImm : (seen 0x3342 (regs [(3, 0x42)]) (·.pc), seen 0x3341 (regs [(3, 0x42)]) (·.pc)) =
    (some 0x204, some 0x202) := by decide
/-- V29. -/
theorem test_sneImm : (seen 0x4342 (regs [(3, 0x42)]) (·.pc), seen 0x4341 (regs [(3, 0x42)]) (·.pc)) =
    (some 0x202, some 0x204) := by decide
/-- V32, V34. -/
theorem test_seReg : (seen 0x5120 (regs [(1, 7), (2, 7)]) (·.pc), seen 0x5120 (regs [(1, 7), (2, 8)]) (·.pc)) =
    (some 0x204, some 0x202) := by decide
/-- V33, V34. -/
theorem test_sneReg : (seen 0x9440 (regs [(4, 7)]) (·.pc), seen 0x9120 (regs [(1, 7), (2, 8)]) (·.pc)) =
    (some 0x202, some 0x204) := by decide
/-- V36: no mask at 4096. -/
theorem test_jpV0 : seen 0xBFFF (regs [(0, 0xFF)]) (·.pc) = some 0x10FE := by decide
/-- V37: with `JUMP_OFFSET_USES_VX` the register is V3. -/
theorem test_jpV0_quirk : seen 0xB300 (configured (regs [(0, 0x10), (3, 0x04)]) jumpVx) (·.pc) = some 0x304 := by decide

/-! ### Register arithmetic and logic -/

/-- V40, at the odd PC of V13. -/
theorem test_ldImm : seen 0x6F00 { regs [(15, 0x55)] with pc := 0x201 } (fun t => (readV t 15, t.pc)) = some (0x00, 0x203) := by decide
/-- V41: no carry flag. -/
theorem test_addImm : seen 0x7101 (regs [(1, 0xFF)]) (fun t => (readV t 1, readV t 15)) = some (0, 0) := by decide
/-- V43. -/
theorem test_ldReg : seen 0x8120 (regs [(2, 0x5A), (15, 0x33)]) (fun t => (readV t 1, readV t 2, readV t 15)) =
    some (0x5A, 0x5A, 0x33) := by decide
/-- V44: VF is not reset. -/
theorem test_orReg : seen 0x8121 (regs [(1, 0xF0), (2, 0x0F), (15, 0x33)]) (fun t => (readV t 1, readV t 15)) =
    some (0xFF, 0x33) := by decide
/-- V45. -/
theorem test_andReg : seen 0x8122 (regs [(1, 0xF0), (2, 0x3C)]) (readV · 1) = some 0x30 := by decide
/-- V45. -/
theorem test_xorReg : seen 0x8123 (regs [(1, 0xF0), (2, 0x3C)]) (readV · 1) = some 0xCC := by decide
/-- S6: a carry out. -/
theorem test_addReg : seen 0x8124 (regs [(1, 0xFF), (2, 0xFF)]) (fun t => (readV t 1, readV t 15)) = some (0xFE, 1) := by decide
/-- V48: the flag is written last. -/
theorem test_addReg_vf : seen 0x8F14 (regs [(15, 0x10), (1, 0xF5)]) (readV · 15) = some 1 := by decide
/-- S7: a borrow. -/
theorem test_sub : seen 0x8125 (regs [(1, 0x03), (2, 0x05)]) (fun t => (readV t 1, readV t 15)) = some (0xFE, 0) := by decide
/-- S7: equal operands borrow nothing. -/
theorem test_sub_equal : seen 0x8125 (regs [(1, 0x05), (2, 0x05)]) (fun t => (readV t 1, readV t 15)) = some (0, 1) := by decide
/-- V53: VY is ignored. -/
theorem test_shr : seen 0x8126 (regs [(1, 0x05), (2, 0xF0)]) (fun t => (readV t 1, readV t 15)) = some (0x02, 1) := by decide
/-- V55. -/
theorem test_shr_quirk : seen 0x8126 (configured (regs [(2, 0x03)]) shiftVy) (fun t => (readV t 1, readV t 15, readV t 2)) =
    some (0x01, 1, 0x03) := by decide
/-- V58. -/
theorem test_subn : seen 0x8127 (regs [(1, 5), (2, 3)]) (fun t => (readV t 1, readV t 15)) = some (0xFE, 0) := by decide
/-- V60. -/
theorem test_shl : seen 0x810E (regs [(1, 0x81)]) (fun t => (readV t 1, readV t 15)) = some (0x02, 1) := by decide
/-- V63. -/
theorem test_shl_quirk : seen 0x812E (configured (regs [(1, 0xFF), (2, 0x40)]) shiftVy) (fun t =>
    (readV t 1, readV t 15, readV t 2)) = some (0x80, 0, 0x40) := by decide
/-- V65: whatever the draw. -/
theorem test_rnd : ∃ t, exec (.rnd 3 0x00) (regs [(3, 9)]) = .next t ∧ readV t 3 = 0 :=
  ⟨_, rfl, BitVec.and_zero⟩

/-! ### Address register and memory -/

/-- V70. -/
theorem test_ldI : seen 0xA000 (indexed State.reset 0x1234) (·.iReg) = some 0x000 := by decide
/-- V75: 16-bit wrap, no flag. -/
theorem test_addIVx : seen 0xF01E (indexed (regs [(0, 2), (15, 7)]) 0xFFFF) (fun t => (t.iReg, readV t 15)) =
    some (0x0001, 7) := by decide
/-- V73. -/
theorem test_addIVx_quirk : seen 0xF01E (configured (indexed (regs [(0, 1)]) 0x0FFF) addIFlag) (fun t =>
    (t.iReg, readV t 15)) = some (0x1000, 1) := by decide
/-- V78: the low nibble names the digit. -/
theorem test_ldFVx : seen 0xF029 (regs [(0, 0x1A)]) (·.iReg) = some 0x082 := by decide
/-- V79. -/
theorem test_ldBVx : seen 0xF033 (indexed (regs [(0, 0xFE)]) 0x300) (fun t =>
    ([0x300, 0x301, 0x302, 0x303].map (readCell t), t.iReg)) = some ([2, 5, 4, 0], 0x300) := by decide
/-- V82: nothing is written. -/
theorem test_ldBVx_fatal : seen 0xF033 (configured (indexed (regs [(0, 123)]) 0x0FFE) fatal) (fun t =>
    (t.run, [0xFFE, 0xFFF].map (readCell t), t.pc)) = some (.halted .addressOutOfRange, [0, 0], 0x200) := by decide
/-- V86: V1 is not stored. -/
theorem test_ldMemVx : seen 0xF055 (indexed (regs [(0, 0xAA), (1, 0xBB)]) 0x300) (fun t =>
    ([0x300, 0x301].map (readCell t), t.iReg)) = some ([0xAA, 0], 0x300) := by decide
/-- V84. -/
theorem test_ldMemVx_quirk : seen 0xF155 (configured (indexed (regs [(0, 1), (1, 2)]) 0x300) incrementing) (fun t =>
    ([0x300, 0x301].map (readCell t), t.iReg)) = some ([1, 2], 0x302) := by decide
/-- V89. -/
theorem test_ldVxMem : seen 0xF265 (indexed (writeCells (regs [(3, 9)]) [(0x300, 2), (0x301, 5), (0x302, 4)]) 0x300) (fun t =>
    ([0, 1, 2, 3].map (readV t), t.iReg)) = some ([2, 5, 4, 9], 0x300) := by decide
/-- V91: I + 1 is not wrapped at 16 bits before `phys`. -/
theorem test_ldVxMem_wraps : seen 0xF165 (configured (indexed (writeCells State.reset [(0xFFF, 8), (0, 9)]) 0xFFFF) incrementing)
    (fun t => ([0, 1].map (readV t), t.iReg)) = some ([8, 9], 0x0001) := by decide

/-! ### Framebuffer -/

/-- V100. -/
theorem test_cls : seen 0x00E0 { regs [(15, 5)] with fb := pixelsOn [(3, 4)] } (fun t =>
    (t.fb, t.renderPending, readV t 15)) = some (blankFramebuffer, true, 5) := by decide
/-- P3, step 6: glyph 7 over both edges. -/
theorem test_drw : seen 0xD125 (indexed (regs [(1, 62), (2, 30)]) 0x073) (fun t =>
    ([30, 31, 0, 1, 2].map (onInRow t), readV t 15, t.renderPending)) =
      some ([[0, 1, 62, 63], [1], [0], [63], [63]], 0, true) := by decide
/-- S8, second instance. -/
theorem test_drw_collision : seen 0xD121 (indexed { writeCells State.reset [(0x300, 0xC0)] with fb := pixelsOn [(0, 0)] } 0x300)
    (fun t => (t.fb, readV t 15)) = some (pixelsOn [(1, 0)], 1) := by decide

/-! ### Keys and timers -/

/-- V122: the low nibble. -/
theorem test_skp : seen 0xE29E { regs [(2, 0x15)] with keys := keysDown [5] } (·.pc) = some 0x204 := by decide
/-- V120. -/
theorem test_sknp : seen 0xE2A1 { regs [(2, 5)] with keys := keysDown [5] } (·.pc) = some 0x202 := by decide
/-- V124. -/
theorem test_ldVxK : seen 0xF30A (regs [(3, 8)]) (fun t => (t.run, t.pc, readV t 3)) = some (.waitingForKey 3, 0x202, 8) := by decide
/-- V132. -/
theorem test_ldVxDt : seen 0xF107 { State.reset with dt := 0x20 } (readV · 1) = some 0x20 := by decide
/-- V133. -/
theorem test_ldDtVx : seen 0xF015 (regs [(0, 0x3C)]) (·.dt) = some 0x3C := by decide
/-- V134. -/
theorem test_ldStVx : seen 0xF018 (regs [(0, 5)]) (fun t => (t.st, soundOn t)) = some (5, true) := by decide
/-- V136. -/
theorem test_tick : (fun t : State => (t.dt, t.st)) (tick { State.reset with st := 3 }) = (0, 2) := by decide

/-! ### Inputs that meet the hypotheses of the statements -/

/-- A word as the bytes of an image. -/
def image (ws : List Word) : List Byte := ws.flatMap fun op => [highByte op, lowByte op]

/-- The reset state with a program's words from 0x200 on. -/
def loaded (ws : List Word) : State := afterLoad (image ws) State.reset

/-- A full call stack. -/
def fullStack : State := { State.reset with stack := List.replicate 16 0x202 }

theorem witness_DecodeEncodeAgree : (Instr.ldVxDt 0xF).wellFormed defaultConfig = true ∧
    (Instr.drw 0 0xF 0).wellFormed (noTimers defaultConfig) = true := by decide
theorem witness_DecodedWordIsItsEncoding : decode defaultConfig 0xFF65 = .instr (.ldVxMem 0xF) := by decide
theorem witness_OpcodeRowsMutuallyExclusive :
    ∃ r ∈ opcodeTable, (0x8FF4 : Word) &&& r.mask = r.bits ∧ r.mnemonic = "ADD_REG" := by decide
/-- A word of each clause at the ends of its range. -/
theorem witness_DecodableWordsByClass : ([0x00E0, 0x00EE, 0x1000, 0xDFFF, 0x5000, 0x9FF0, 0x8000, 0x8FF7, 0x8FFE, 0xE09E,
    0xEFA1, 0xF00A, 0xFF65, 0xF007, 0xFF18] : List Word).all (fun op => (decodeTableWord 16 op.toNat).isSome) = true := by
  decide +kernel
/-- Words just outside the clauses. -/
theorem witness_DecodableWordsByClass_outside : ([0x00DF, 0x01E0, 0x5001, 0x8008, 0x800D, 0x800F, 0x900F, 0xE09D, 0xE0A2,
    0xF000, 0xFF66] : List Word).all (fun op => (decodeTableWord 16 op.toNat).isNone) = true := by decide +kernel
/-- The last clause without `TIMER_OPS`. -/
theorem witness_DecodableWordsByClass_noTimers : ([0xF007, 0xF015, 0xFF18] : List Word).all (fun op =>
    decode (noTimers defaultConfig) op = .rejected (.timerOpsAbsent op)) = true := by decide +kernel
theorem witness_DecodableWordCount : defaultConfig.timerOps = true ∧ (noTimers defaultConfig).timerOps = false := by decide
/-- Fetch at the last address of Fatal mode, and over the end of memory in Wrap mode. -/
theorem witness_StepRunsTheDecodedInstruction :
    (fun s : State => s.run = .running ∧ phys s.cfg s.pc.toNat = some 4094 ∧ phys s.cfg (s.pc.toNat + 1) = some 4095 ∧
      decode s.cfg (readCell s 4094 ++ readCell s 4095) = .instr (.jp 0x200))
      (placeWord { configured State.reset fatal with pc := 4094 } 0x1200) ∧
    (fun s : State => s.run = .running ∧ phys s.cfg s.pc.toNat = some 4095 ∧ phys s.cfg (s.pc.toNat + 1) = some 0 ∧
      decode s.cfg (readCell s 4095 ++ readCell s 0) = .instr (.jp 0x200))
      (placeWord { State.reset with pc := 4095 } 0x1200) := by decide
/-- A halted state whose PC cannot be fetched. -/
theorem witness_PlacedWordIsFetchedAndRun :
    (fun s : State => Memory.wf s.cfg s.mem = true ∧ decode s.cfg 0x1200 = .instr (.jp 0x200))
      { configured State.reset fatal with pc := 0x0FFF, run := .halted .addressOutOfRange } := by decide
theorem witness_UnknownWordIsLoggedOrHalts :
    (fun s : State => s.run = .running ∧ fetch s = .ok 0x0000 ∧
      decode s.cfg 0x0000 = .rejected (.unknownOpcode 0x0000) ∧ s.cfg.strictUnknown = false) State.reset ∧
    (fun s : State => s.run = .running ∧ fetch s = .ok 0x0000 ∧
      decode s.cfg 0x0000 = .rejected (.unknownOpcode 0x0000) ∧ s.cfg.strictUnknown = true)
      (configured State.reset strict) := ⟨⟨rfl, rfl, by decide, rfl⟩, ⟨rfl, rfl, by decide, rfl⟩⟩
theorem witness_FetchOutOfRangeHaltsFirst :
    (fun s : State => s.run = .running ∧ s.cfg.addrMode = .fatal ∧ 4095 ≤ s.pc.toNat)
      { configured State.reset fatal with pc := 4095 } := by decide
theorem witness_WaitingStepPollsTheKeys :
    (fun s : State => s.run = .waitingForKey 15 ∧
      ∀ k : RegIx, ¬(s.keys[k.toNat]'k.isLt = true ∧ s.prevKeys[k.toNat]'k.isLt = false))
      { State.reset with run := .waitingForKey 15, keys := keysDown [2], prevKeys := keysDown [2] } ∧
    (fun s : State => s.run = .waitingForKey 0 ∧
      ∃ k : RegIx, s.keys[k.toNat]'k.isLt = true ∧ s.prevKeys[k.toNat]'k.isLt = false)
      { State.reset with run := .waitingForKey 0, keys := keysDown [2, 15], prevKeys := keysDown [2] } := by decide
theorem witness_HaltLastsUntilAProgramLoad :
    ({ State.reset with run := .halted .stackUnderflow } : State).run = .halted .stackUnderflow ∧
    (∀ b, Event.loadImage b ∉ [Event.step, .tick, .ackRender]) ∧
    ∃ t, loadImage [0x12, 0x00] { State.reset with run := .halted .stackUnderflow } = .ok t :=
  ⟨rfl, by simp, _, rfl⟩
theorem witness_WaitLastsUntilAKeyIsPressed :
    (fun s : State => s.run = .waitingForKey 3 ∧
      (∀ k : RegIx, ¬(s.keys[k.toNat]'k.isLt = true ∧ s.prevKeys[k.toNat]'k.isLt = false)) ∧
      ∀ e ∈ [Event.step, .tick, .ackRender], e = .step ∨ e = .tick ∨ e = .ackRender)
      { State.reset with run := .waitingForKey 3, dt := 2 } := by decide
theorem witness_HaltsArePrecise :
    (loaded [0x00EE]).run = .running ∧ ∃ t, step (loaded [0x00EE]) = .next t ∧ t.run = .halted .stackUnderflow :=
  ⟨rfl, _, rfl, by decide⟩
/-- One step into each halt: 00EE, the seventeenth call, an unknown word, and a fetch address. -/
theorem witness_HaltCauses :
    (∃ t, step (loaded [0x00EE]) = .next t ∧ t.run = .halted .stackUnderflow) ∧
    (∃ t, step (placeWord fullStack 0x2400) = .next t ∧ t.run = .halted .stackOverflow) ∧
    (∃ t, step (configured State.reset strict) = .next t ∧ t.run = .halted .unknownOpcode) ∧
    (∃ t, step { configured State.reset fatal with pc := 4095 } = .next t ∧ t.run = .halted .addressOutOfRange) :=
  ⟨⟨_, rfl, by decide⟩, ⟨_, rfl, by decide⟩, ⟨_, rfl, by decide⟩, ⟨_, rfl, by decide⟩⟩
/-- One step into an address halt by each of DXYN, FX33, FX55 and FX65, in Fatal mode. -/
theorem witness_HaltCauses_data_addresses : ([0xD122, 0xF033, 0xF155, 0xF165] : List Word).map (fun op =>
    seen op (configured (indexed State.reset 4095) fatal) (·.run)) =
      List.replicate 4 (some (.halted .addressOutOfRange)) := by decide +kernel
theorem witness_RunStateTransitions :
    (∃ t, step State.reset = .next t ∧ State.reset.run = .running ∧ t.run = .running) ∧
    (∃ t, step (loaded [0xF30A]) = .next t ∧ (loaded [0xF30A]).run = .running ∧ t.run = .waitingForKey 3) ∧
    (∃ t, step { State.reset with run := .waitingForKey 3 } = .next t ∧ t.run = .waitingForKey 3) ∧
    (∃ t, step (refreshKeys (keysDown [7]) { State.reset with run := .waitingForKey 3 }) = .next t ∧ t.run = .running) ∧
    (∃ t, step { State.reset with run := .halted .stackOverflow } = .next t ∧ t.run = .halted .stackOverflow) ∧
    ∃ t, loadImage [] State.reset = .ok t :=
  ⟨⟨_, rfl, by decide, by decide⟩, ⟨_, rfl, by decide, by decide⟩, ⟨_, rfl, by decide⟩, ⟨_, rfl, by decide⟩, ⟨_, rfl, by decide⟩,
    _, rfl⟩
/-- The default font base, and the largest allowed one. -/
theorem witness_ResetMeetsTheInvariant : defaultConfig.wf ∧ ({ defaultConfig with fontBase := 0x1B0 } : Config).wf := by
  decide
theorem witness_StepKeepsTheInvariant : (placeWord fullStack 0x2400).Inv ∧ ∃ t, step (placeWord fullStack 0x2400) = .next t :=
  ⟨by decide, _, rfl⟩
theorem witness_SchedulesKeepTheInvariant : State.reset.Inv ∧
    ∃ t, runEvents [.loadImage [0x12, 0x00], .step, .tick, .refreshKeys (keysDown [1]), .ackRender] State.reset = .next t :=
  ⟨by decide, _, rfl⟩
theorem witness_ConfigurationNeverChanges :
    ∃ t, runEvents [.step, .loadImage [0x12, 0x00], .step] (configured State.reset strict) = .next t := ⟨_, rfl⟩
/-- V22, with the jump at 0x200. -/
theorem witness_IdleStateStaysPut : (loaded [0x1200]).idle := ⟨by decide, 0x1200, 0x200, rfl, by decide, by decide⟩
/-- A change of VF by each clause. -/
theorem witness_VfChangesOnlyAsFlagOrDestination :
    (∀ i ∈ ([.addReg 1 1, .sub 1 2, .shr 1 1, .subn 1 1, .shl 2 2, .drw 1 1 1, .ldImm 15 4, .addImm 15 4, .ldReg 15 1,
      .orReg 15 1, .andReg 15 0, .xorReg 15 1, .ldVxDt 15, .ldVxMem 15] : List Instr),
      (nextOf (exec i (regs [(1, 0x81), (2, 0xFF), (15, 2)]))).any (fun t => readV t 15 != 2) = true) ∧
    (nextOf (exec (.addIVx 1) (configured (regs [(15, 2)]) addIFlag))).map (readV · 15) = some 0 := by decide
/-- A change of each component. -/
theorem witness_ComponentsChangeOnlyByTheirWriters :
    (fun s : State => (∀ i ∈ ([.cls, .drw 0 0 1] : List Instr), (nextOf (exec i s)).any (fun t => t.fb != s.fb) = true) ∧
      (∀ i ∈ ([.ldBVx 1, .ldMemVx 1] : List Instr), (nextOf (exec i s)).any (fun t => t.mem != s.mem) = true) ∧
      (∀ i ∈ ([.ret, .call 0x300] : List Instr), (nextOf (exec i s)).any (fun t => t.stack != s.stack) = true) ∧
      (nextOf (exec (.ldDtVx 1) s)).any (fun t => t.dt != s.dt) = true ∧
      (nextOf (exec (.ldStVx 1) s)).any (fun t => t.st != s.st) = true ∧
      (∀ i ∈ ([.ldI 0x300, .addIVx 1, .ldFVx 1, .ldMemVx 1, .ldVxMem 1] : List Instr),
        (nextOf (exec i s)).any (fun t => t.iReg != s.iReg) = true))
      { configured (indexed (regs [(1, 0x81)]) 0x050) incrementing with fb := pixelsOn [(3, 4)], stack := [0x202] } := by
  decide
theorem witness_PcAdvanceByClass :
    ∀ i ∈ ([.cls, .seImm 0 0, .sneImm 0 0, .ret, .jp 0xFFF, .call 0x000, .jpV0 0xFFF] : List Instr),
      (nextOf (exec i { State.reset with stack := [0x202] })).any (fun t => t.run == .running) = true := by decide

/-- A stack of one entry, and an empty one. -/
theorem witness_ReturnPopsTheStack : ({ State.reset with stack := [0x206] } : State).stack = [] ++ [0x206] ∧
    State.reset.stack = [] := by decide
/-- Both sides of the last clause: 0xFFF and 0xFFE in Fatal mode. -/
theorem witness_JumpSetsPc :
    fetch (writePC (configured State.reset fatal) (zext16 0xFFF)) = .error .addressOutOfRange ∧
    fetch (writePC (configured State.reset fatal) (zext16 0xFFE)) = .ok 0x0000 := ⟨rfl, rfl⟩
/-- Fifteen entries, and sixteen. -/
theorem witness_CallPushesTheReturnAddress :
    ({ State.reset with stack := List.replicate 15 0x202 } : State).stack.length < 16 ∧ fullStack.stack.length = 16 := by
  decide
theorem witness_CallThenReturn : ({ State.reset with stack := List.replicate 15 0x202 } : State).stack.length < 16 := by
  decide
theorem witness_OffsetJumpTarget : State.reset.cfg.jumpOffsetUsesVx = false ∧
    (configured State.reset jumpVx).cfg.jumpOffsetUsesVx = true := by decide
theorem witness_ShiftsAndTheBitShiftedOut :
    ∀ s ∈ [regs [(1, 0x81), (2, 3)], configured (regs [(1, 3), (2, 0x81)]) shiftVy],
      (0x81 : Byte) = if s.cfg.shiftUsesVy then readV s 2 else readV s 1 := by decide
theorem witness_AddToIndexRegister : State.reset.cfg.addISetsVf = false ∧
    (configured State.reset addIFlag).cfg.addISetsVf = true := by decide
/-- In range up to 4096 in Fatal mode, out of range from 4097 on, always in range in Wrap mode. -/
theorem witness_BcdDigitsAreStored :
    (fun s : State => Memory.wf s.cfg s.mem = true ∧ fitsMemory s.cfg s.iReg.toNat 3)
      (configured (indexed State.reset 4093) fatal) ∧
    (fun s : State => Memory.wf s.cfg s.mem = true ∧ ¬ fitsMemory s.cfg s.iReg.toNat 3)
      (configured (indexed State.reset 4094) fatal) ∧
    (fun s : State => Memory.wf s.cfg s.mem = true ∧ fitsMemory s.cfg s.iReg.toNat 3) (indexed State.reset 0xFFFF) := by
  simp only [fitsMemory]; decide
theorem witness_RegisterDumpStoresV0ToVx :
    (fun s : State => Memory.wf s.cfg s.mem = true ∧ fitsMemory s.cfg s.iReg.toNat ((15 : RegIx).toNat + 1))
      (configured (indexed State.reset 4080) fatal) ∧
    (fun s : State => Memory.wf s.cfg s.mem = true ∧ ¬ fitsMemory s.cfg s.iReg.toNat ((15 : RegIx).toNat + 1))
      (configured (indexed State.reset 4081) fatal) ∧
    (fun s : State => Memory.wf s.cfg s.mem = true ∧ fitsMemory s.cfg s.iReg.toNat ((0 : RegIx).toNat + 1))
      (indexed State.reset 0xFFFF) := by
  simp only [fitsMemory]; decide
theorem witness_RegisterLoadReadsV0ToVx :
    (fun s : State => fitsMemory s.cfg s.iReg.toNat ((1 : RegIx).toNat + 1)) (configured (indexed State.reset 4094) fatal) ∧
    (fun s : State => ¬ fitsMemory s.cfg s.iReg.toNat ((1 : RegIx).toNat + 1))
      (configured (indexed State.reset 4095) fatal) ∧
    (fun s : State => fitsMemory s.cfg s.iReg.toNat ((1 : RegIx).toNat + 1)) (indexed State.reset 0xFFFF) := by
  simp only [fitsMemory]; decide
theorem witness_DumpThenLoadRestoresRegisters :
    (fun s : State => Memory.wf s.cfg s.mem = true ∧ fitsMemory s.cfg s.iReg.toNat ((15 : RegIx).toNat + 1) ∧
      ∃ t, exec (.ldMemVx 15) s = .next t) (indexed (regs [(0, 1), (15, 2)]) 0x0FF8) :=
  ⟨by decide, .inl rfl, _, rfl⟩
/-- P7: the dump at 0x206 stores over 0x208. -/
theorem witness_StoreIsSeenByTheNextFetch :
    (fun s : State => Memory.wf s.cfg s.mem = true ∧ 1 ≤ (1 : RegIx).toNat ∧ s.iReg = s.pc + 2 ∧
      fitsMemory s.cfg s.iReg.toNat ((1 : RegIx).toNat + 1) ∧ ∃ t, exec (.ldMemVx 1) s = .next t)
      { indexed (regs [(0, 0x12), (1, 0x0A)]) 0x208 with pc := 0x206 } :=
  ⟨by decide, by decide, by decide, .inl rfl, _, rfl⟩
/-- A cell written and written back to its reset value leaves the memory of reset. -/
theorem witness_MemoriesThatReadAlikeAreEqual :
    Memory.wf defaultConfig (writeCells State.reset [(0x300, 7), (0x300, 0)]).mem = true ∧
    Memory.wf defaultConfig State.reset.mem = true ∧
    (writeCells State.reset [(0x300, 7), (0x300, 0)]).mem = State.reset.mem := by decide
/-- A sprite that ends at 4095, one that goes beyond, one of no rows, and one that covers a pixel that is on. -/
theorem witness_DrawFlipsCoveredPixels :
    (fun s : State => fitsMemory s.cfg s.iReg.toNat (15 : BitVec 4).toNat) (configured (indexed State.reset 4081) fatal) ∧
    (fun s : State => ¬ fitsMemory s.cfg s.iReg.toNat (15 : BitVec 4).toNat)
      (configured (indexed State.reset 4082) fatal) ∧
    (fun s : State => fitsMemory s.cfg s.iReg.toNat (0 : BitVec 4).toNat)
      (configured (indexed State.reset 0xFFFF) fatal) := by
  simp only [fitsMemory]; decide
/-- Glyph 0 at (62, 30) covers (1, 30), which is on in the first state; nothing is on in the second. -/
theorem witness_DrawFlipsCoveredPixels_collision :
    (fun s : State => ∃ px py, spriteCovers s 1 1 5 px py ∧ pixel s.fb px py = true)
      (indexed { regs [(1, 62)] with fb := pixelsOn [(1, 30)] } 0x050) ∧
    (fun s : State => ¬ ∃ px py, spriteCovers s 1 1 5 px py ∧ pixel s.fb px py = true) (indexed (regs [(1, 62)]) 0x050) := by
  refine ⟨⟨1, 30, ⟨0, 3, by decide⟩, by decide⟩, ?_⟩
  rintro ⟨px, py, -, h⟩
  change pixel blankFramebuffer px py = true at h
  simp [pixel, blankFramebuffer] at h
/-- Glyph 0 drawn where nothing is on, and a sprite of no rows, which turns no pixel on. -/
theorem witness_SecondDrawRestoresTheFramebuffer :
    (∃ t, fitsMemory defaultConfig 0x050 5 ∧ exec (.drw 1 2 5) (indexed State.reset 0x050) = .next t ∧ readV t 1 = 0 ∧
      readV t 2 = 0 ∧ pixel State.reset.fb 3 4 = false ∧ pixel t.fb 3 4 = true) ∧
    ∃ t, fitsMemory defaultConfig 0 0 ∧ exec (.drw 1 2 0) State.reset = .next t ∧ readV t 1 = 0 ∧ readV t 2 = 0 ∧
      t.fb = State.reset.fb :=
  ⟨⟨_, .inl rfl, rfl, by decide⟩, _, .inl rfl, rfl, by decide⟩
theorem witness_DrawOrderDoesNotMatter : (List.replicate 15 (0xFF : Byte)).length ≤ 15 ∧
    [(1, 0), (0, 0)].Perm (spritePixels 0 0 [0xC0]) := by decide
theorem witness_KeySkips :
    (fun s : State => s.keys[(readV s 1).toNat % 16]'(Nat.mod_lt _ (Nat.succ_pos 15)) = true ∧
      s.keys[(readV s 2).toNat % 16]'(Nat.mod_lt _ (Nat.succ_pos 15)) = false)
      { regs [(1, 0x1F), (2, 0x10)] with keys := keysDown [15] } := by decide
theorem witness_TimerInstructions : (defaultConfig.timerOps = true ∧ (noTimers defaultConfig).timerOps = false) ∧
    (soundOn (regs [(1, 1)]) = false ∧ 0 < (readV (regs [(1, 1)]) 1).toNat ∧ ¬ 0 < (readV (regs [(1, 1)]) 2).toNat) := by
  decide
/-- V135, and V134. -/
theorem witness_SoundChangesOnlyByFx18OrTick :
    (∃ t, applyEvent .tick { State.reset with st := 1 } = .next t ∧ soundOn t = false) ∧
    ∃ t, applyEvent .step (placeWord (regs [(0, 5)]) 0xF018) = .next t ∧ soundOn t = true :=
  ⟨⟨_, rfl, by decide⟩, _, rfl, by decide⟩
/-- V142, V143. -/
theorem witness_LoadImageIsAllOrNothing : 3584 < (List.replicate 3585 (0 : Byte)).length ∧
    (List.replicate 3584 (0 : Byte)).length ≤ 3584 := by
  simp only [List.length_replicate]; decide
theorem witness_FirstStepAfterAnEmptyImage :
    (defaultConfig.wf ∧ defaultConfig.strictUnknown = false) ∧ (strict defaultConfig).wf ∧
      (strict defaultConfig).strictUnknown = true := by decide
theorem witness_WrittenFormsNameOneWord : (Instr.jpV0 0x300).wellFormed defaultConfig = true ∧
    asmWord defaultConfig 0x8008 = asmWord defaultConfig 0x8008 := by decide
theorem witness_NamedRegistersReadUnderTheQuirks : State.reset.cfg.shiftUsesVy = false ∧
    ((configured State.reset shiftVy).cfg.shiftUsesVy = true ∧ (14 : RegIx) ≠ 15) ∧
    ∀ s ∈ [State.reset, configured State.reset jumpVx],
      (4 : RegIx) ≠ if s.cfg.jumpOffsetUsesVx then BitVec.ofNat 4 ((0x300 : BitVec 12).toNat / 256) else 0 := by decide

/-! ### Written forms -/

/-- The program texts of S4, P2 and P4. -/
theorem test_asmText : ([0x00E0, 0xA20C, 0x2210, 0x6A7B, 0xFA33, 0xF265, 0xF10A, 0xF115] : List Word).map
    (fun op => (asmWord defaultConfig op).text) = ["CLS", "LD I, 0x20C", "CALL 0x210", "LD VA, 0x7B", "LD B, VA",
      "LD V2, [I]", "LD V1, K", "LD DT, V1"] := by decide +kernel
/-- P6: an unknown word; and R93's syntax of DXYN. -/
theorem test_asmText_unknown : (asmWord defaultConfig 0x8008).text = "DW 0x8008" ∧
    (asmLine (.drw 1 2 5)).text = "DRW V1, V2, 0x5" := by decide +kernel

end Sys2Proof.Tests
end

section
/-! PROOFS. The configuration along every schedule (00_scope.md R6): what each part of a step leaves of it, then each
event, then the induction over the schedule, which is stated for any predicate. -/

namespace Sys2Proof.Machine

/-- What the events of a schedule keep, one by one, the schedule keeps (R277). -/
theorem runEvents_keeps {P : State → Prop} {es : List Event} {s t : State}
    (hkeeps : ∀ e ∈ es, ∀ u u', P u → applyEvent e u = .next u' → P u') (hs : P s)
    (hrun : runEvents es s = .next t) : P t := by
  induction es generalizing s with
  | nil => cases hrun; exact hs
  | cons e es ih =>
    rw [runEvents] at hrun
    cases he : applyEvent e s with
    | next u =>
      rw [he] at hrun
      exact ih (fun e' he' => hkeeps e' (List.mem_cons_of_mem _ he')) (hkeeps e List.mem_cons_self s u hs he) hrun
    | fault r => rw [he] at hrun; cases hrun
    | refused r => rw [he] at hrun; cases hrun

@[simp] theorem writeCells_cfg (s : State) (pbs : List (Nat × Byte)) : (writeCells s pbs).cfg = s.cfg := by
  rw [writeCells_eq]

@[simp] theorem unknownOpcode_cfg (op : Word) (s : State) : (unknownOpcode op s).cfg = s.cfg := by
  unfold unknownOpcode
  split
  · exact raiseHalt_cfg s _
  · rw [advance_cfg, appendDiag_cfg]

@[simp] theorem stepWaiting_cfg (x : RegIx) (s : State) : (stepWaiting x s).cfg = s.cfg := by
  unfold stepWaiting
  split <;> rfl

/-- A reset keeps the configuration (R290). -/
@[simp] theorem resetMachine_cfg (s : State) : (resetMachine s).cfg = s.cfg := rfl

/-- A load keeps the configuration, refused or not (R62). -/
@[simp] theorem afterLoad_cfg (b : List Byte) (s : State) : (afterLoad b s).cfg = s.cfg := by
  unfold afterLoad
  split
  case h_1 t hload =>
    obtain ⟨-, rfl⟩ := loadImage_ok hload
    rw [writeCells_cfg, resetMachine_cfg]
  case h_2 => rfl

theorem exec_cfg {i : Instr} {s t : State} (h : exec i s = .next t) : t.cfg = s.cfg := by
  obtain ⟨r, rfl, -⟩ | ⟨hcfg, -⟩ := exec_cases h
  · exact raiseHalt_cfg s r
  · exact hcfg

theorem step_cfg {s t : State} (h : step s = .next t) : t.cfg = s.cfg := by
  cases hrun : s.run with
  | running =>
    obtain ⟨-, -, rfl⟩ | ⟨op, -, -, -, rfl⟩ | ⟨-, i, -, -, hexec⟩ := step_running_cases hrun h
    · exact raiseHalt_cfg s _
    · exact unknownOpcode_cfg op s
    · exact exec_cfg hexec
  | waitingForKey x => cases (step_waiting hrun).symm.trans h; exact stepWaiting_cfg x s
  | halted r => cases (step_halted hrun).symm.trans h; rfl

theorem applyEvent_cfg {e : Event} {s t : State} (h : applyEvent e s = .next t) : t.cfg = s.cfg := by
  cases e with
  | step => exact step_cfg h
  | tick => cases h; exact tick_cfg s
  | refreshKeys k => cases h; exact refreshKeys_cfg s k
  | ackRender => cases h; exact ackRender_cfg s
  | loadImage b => cases h; exact afterLoad_cfg b s

/-- Settles O21: every event keeps the configuration, and so does every schedule. -/
theorem configurationNeverChanges : Obligations.ConfigurationNeverChanges := fun _ s _ hrun =>
  runEvents_keeps (P := fun u => u.cfg = s.cfg) (fun _ _ _ _ hu he => (applyEvent_cfg he).trans hu) rfl hrun

end Sys2Proof.Machine
end

section
/-! PROOFS. What an instruction leaves unchanged (10_state.md R40): a frame for each meaning that can halt, then the
writers of each component and of VF. -/

namespace Sys2Proof.Machine

/-! ### Frames of the meanings that can halt: the components named by `t` are those it may write -/

theorem increments_of_incrementI_iReg_ne {s : State} {i0 : Word} {x : RegIx}
    (hne : (incrementI s i0 x).iReg ≠ s.iReg) : s.cfg.loadStoreIncrementsI = true := by
  by_contra hq
  exact hne (by rw [incrementI, if_neg hq])

theorem execRet_frame {s t : State} (h : execRet s = .next t) :
    t = { s with stack := t.stack, pc := t.pc, run := t.run } := by
  rcases List.eq_nil_or_concat s.stack with hs | ⟨ws, w, hs⟩
  · cases (execRet_empty hs).symm.trans h; rfl
  · rw [List.concat_eq_append] at hs
    cases (execRet_ok hs).symm.trans h; rfl

theorem execCall_frame {nnn : BitVec 12} {s t : State} (h : execCall nnn s = .next t) :
    t = { s with stack := t.stack, pc := t.pc, run := t.run } := by
  by_cases hl : s.stack.length < 16
  · cases (execCall_ok hl nnn).symm.trans h; rfl
  · cases (execCall_full hl nnn).symm.trans h; rfl

theorem execDrw_frame {x y : RegIx} {n : BitVec 4} {s t : State} (h : execDrw x y n s = .next t) :
    t = { s with v := t.v, fb := t.fb, renderPending := t.renderPending, pc := t.pc, run := t.run } := by
  cases hp : physRange s.cfg s.iReg.toNat n.toNat with
  | none => cases (execDrw_halt hp).symm.trans h; rfl
  | some ps => cases (execDrw_ok hp).symm.trans h; rfl

theorem execLdBVx_frame {x : RegIx} {s t : State} (h : execLdBVx x s = .next t) :
    t = { s with mem := t.mem, pc := t.pc, run := t.run } := by
  cases hp : physRange s.cfg s.iReg.toNat 3 with
  | none => cases (execLdBVx_halt hp).symm.trans h; rfl
  | some ps => cases (execLdBVx_ok hp).symm.trans h; rw [writeCells_eq]; rfl

/-- A register dump may write I only with `LOADSTORE_INCREMENTS_I` (R185). -/
theorem execLdMemVx_frame {x : RegIx} {s t : State} (h : execLdMemVx x s = .next t) :
    t = { s with mem := t.mem, iReg := t.iReg, pc := t.pc, run := t.run } ∧
      (t.iReg ≠ s.iReg → s.cfg.loadStoreIncrementsI = true) := by
  cases hp : physRange s.cfg s.iReg.toNat (x.toNat + 1) with
  | none => cases (execLdMemVx_halt hp).symm.trans h; exact ⟨rfl, fun hne => absurd rfl hne⟩
  | some ps =>
    cases (execLdMemVx_ok hp).symm.trans h
    rw [advance_iReg, writeCells_eq]
    refine ⟨?_, increments_of_incrementI_iReg_ne⟩
    rw [incrementI_eq]
    rfl

/-- A register load may write I only with `LOADSTORE_INCREMENTS_I` (R186). -/
theorem execLdVxMem_frame {x : RegIx} {s t : State} (h : execLdVxMem x s = .next t) :
    t = { s with v := t.v, iReg := t.iReg, pc := t.pc, run := t.run } ∧
      (t.iReg ≠ s.iReg → s.cfg.loadStoreIncrementsI = true) := by
  cases hp : physRange s.cfg s.iReg.toNat (x.toNat + 1) with
  | none => cases (execLdVxMem_halt hp).symm.trans h; exact ⟨rfl, fun hne => absurd rfl hne⟩
  | some ps =>
    cases (execLdVxMem_ok hp).symm.trans h
    rw [advance_iReg, writeRegsFrom_eq]
    refine ⟨?_, increments_of_incrementI_iReg_ne⟩
    rw [incrementI_eq]
    rfl

/-- Settles O24: the frames of the meanings that can halt, and the field lemmas of the others' updates. -/
theorem componentsChangeOnlyByTheirWriters : Obligations.ComponentsChangeOnlyByTheirWriters := by
  intro i s t h
  cases i with
  | ret => rw [execRet_frame h]; simp
  | call nnn => rw [execCall_frame h]; simp
  | drw x y n => rw [execDrw_frame h]; simp
  | ldBVx x => rw [execLdBVx_frame h]; simp
  | ldMemVx x =>
    obtain ⟨hframe, hquirk⟩ := execLdMemVx_frame h
    rw [hframe]
    simpa using hquirk
  | ldVxMem x =>
    obtain ⟨hframe, hquirk⟩ := execLdVxMem_frame h
    rw [hframe]
    simpa using hquirk
  | addIVx x =>
    cases h
    by_cases hq : s.cfg.addISetsVf = true <;> simp [hq]
  | _ => cases h; simp

/-! ### VF (R23) -/

/-- An instruction that writes V[x] and no flag changes VF only when x is 15. -/
theorem eq_vf_of_writeResult_changes_vf {s t : State} {x : RegIx} {b : Byte} (h : writeResult s x b = .next t)
    (hne : readV t 15 ≠ readV s 15) : x = 15 := by
  cases h
  by_contra hx
  exact hne (readV_writeV_ne s b (Ne.symm hx))

/-- A register load changes VF only when it loads all sixteen registers (R186). -/
theorem eq_vf_of_execLdVxMem_changes_vf {s t : State} {x : RegIx} (h : execLdVxMem x s = .next t)
    (hne : readV t 15 ≠ readV s 15) : x = 15 := by
  by_contra hx
  have hlt : x.toNat < 15 := by
    have := x.isLt
    have : x.toNat ≠ 15 := fun e => hx (BitVec.eq_of_toNat_eq e)
    omega
  cases hp : physRange s.cfg s.iReg.toNat (x.toNat + 1) with
  | none => cases (execLdVxMem_halt hp).symm.trans h; exact hne rfl
  | some ps =>
    cases (execLdVxMem_ok hp).symm.trans h
    have hlen : (ps.map (readCell s)).length = x.toNat + 1 := by rw [List.length_map, physRange_length hp]
    apply hne
    rw [incrementI_eq]
    exact (readV_writeRegsFrom (ps.map (readCell s)) s 0 15 (by omega) (by decide)).trans (dif_neg (by omega))

/-- FX1E changes VF only with `ADD_I_SETS_VF` (R182). -/
theorem setsVf_of_execAddIVx_changes_vf {s t : State} {x : RegIx} (h : execAddIVx x s = .next t)
    (hne : readV t 15 ≠ readV s 15) : s.cfg.addISetsVf = true := by
  by_contra hq
  cases h
  rw [if_neg hq] at hne
  exact hne rfl

/-- Settles O23: the flag writers are listed, a register write changes VF only when it names it, and every other
instruction leaves the registers alone. -/
theorem vfChangesOnlyAsFlagOrDestination : Obligations.VfChangesOnlyAsFlagOrDestination := by
  intro i s t h hne
  cases i with
  | addReg | sub | shr | subn | shl | drw => simp
  | addIVx x => simpa using setsVf_of_execAddIVx_changes_vf h hne
  | ldImm | addImm | ldReg | orReg | andReg | xorReg | ldVxDt => simpa using eq_vf_of_writeResult_changes_vf h hne
  | rnd x nn => simpa using eq_vf_of_writeResult_changes_vf (s := (draw8 s).2) h hne
  | ldVxMem x => simpa using eq_vf_of_execLdVxMem_changes_vf h hne
  | ret => exact absurd (readV_congr (congrArg State.v (execRet_frame h)) 15) hne
  | call nnn => exact absurd (readV_congr (congrArg State.v (execCall_frame h)) 15) hne
  | ldBVx x => exact absurd (readV_congr (congrArg State.v (execLdBVx_frame h)) 15) hne
  | ldMemVx x =>
    obtain ⟨hframe, -⟩ := execLdMemVx_frame h
    exact absurd (readV_congr (congrArg State.v hframe) 15) hne
  | _ => cases h; exact absurd rfl hne

end Sys2Proof.Machine
end

section
/-! PROOFS. The invariant (R26, R33, R50, R290): at reset, through every operation that takes part in an event, then
through every event and every schedule. -/

namespace Sys2Proof.Machine

/-- In every allowed configuration the reset state meets the invariant (R41). -/
theorem resetWith_inv {c : Config} (hc : c.wf) (d : Nat) : (State.resetWith c d).Inv :=
  ⟨hc, Memory.wf_nil c, Nat.zero_le _, rfl⟩

/-- Settles O18: the default configuration is one of those allowed. -/
theorem resetMeetsTheInvariant : Obligations.ResetMeetsTheInvariant :=
  ⟨resetWith_inv (by decide) 0, fun _ d hc => resetWith_inv hc d⟩

/-- A halt for a reason the configuration allows keeps the invariant. -/
theorem raiseHalt_inv {s : State} {r : HaltReason} (hs : s.Inv) (hr : haltPossible s.cfg (.halted r) = true) :
    (raiseHalt r s).Inv := by
  obtain ⟨hcfg, hmem, hstack, -⟩ := hs
  exact ⟨hcfg, hmem, hstack, hr⟩

theorem haltPossible_addressOutOfRange {c : Config} (h : c.addrMode = .fatal) :
    haltPossible c (.halted .addressOutOfRange) = true := by simp [haltPossible, h]

theorem unknownOpcode_strict {s : State} (h : s.cfg.strictUnknown = true) (op : Word) :
    unknownOpcode op s = raiseHalt .unknownOpcode s := if_pos h

theorem unknownOpcode_logged {s : State} (h : s.cfg.strictUnknown ≠ true) (op : Word) :
    unknownOpcode op s = advance (appendDiag s op s.pc) := if_neg h

theorem unknownOpcode_inv {s : State} (hs : s.Inv) (op : Word) : (unknownOpcode op s).Inv := by
  by_cases hstrict : s.cfg.strictUnknown = true
  · rw [unknownOpcode_strict hstrict]
    exact raiseHalt_inv hs hstrict
  · rw [unknownOpcode_logged hstrict]
    exact hs

theorem exec_inv {i : Instr} {s t : State} (hs : s.Inv) (h : exec i s = .next t) : t.Inv := by
  obtain ⟨r, rfl, hr⟩ | ⟨hcfg, hrun, hstack, hmem⟩ := exec_cases h
  · refine raiseHalt_inv hs ?_
    obtain rfl | rfl | ⟨rfl, hfatal⟩ := hr
    · rfl
    · rfl
    · exact haltPossible_addressOutOfRange hfatal
  · obtain ⟨hwf, hcanonical, hdepth, hpossible⟩ := hs
    rw [State.Inv, hcfg]
    refine ⟨hwf, hmem hcanonical, hstack hdepth, ?_⟩
    obtain hrun | ⟨x, -, hrun⟩ := hrun
    · rw [hrun]; exact hpossible
    · rw [hrun]; rfl

theorem stepWaiting_none {s : State} (h : anyJustPressed s = none) (x : RegIx) : stepWaiting x s = s := by
  rw [stepWaiting, h]

theorem stepWaiting_some {s : State} {k : RegIx} (h : anyJustPressed s = some k) (x : RegIx) :
    stepWaiting x s = { writeRun (writeV s x (k.setWidth 8)) .running with draws := s.draws + 1 } := by
  rw [stepWaiting, h]

theorem stepWaiting_inv {s : State} (hs : s.Inv) (x : RegIx) : (stepWaiting x s).Inv := by
  cases hk : anyJustPressed s with
  | none => rw [stepWaiting_none hk]; exact hs
  | some k =>
    rw [stepWaiting_some hk]
    obtain ⟨hcfg, hmem, hstack, -⟩ := hs
    exact ⟨hcfg, hmem, hstack, rfl⟩

theorem step_inv {s t : State} (hs : s.Inv) (h : step s = .next t) : t.Inv := by
  cases hrun : s.run with
  | running =>
    obtain ⟨-, hfatal, rfl⟩ | ⟨op, -, -, -, rfl⟩ | ⟨-, i, -, -, hexec⟩ := step_running_cases hrun h
    · exact raiseHalt_inv hs (haltPossible_addressOutOfRange hfatal)
    · exact unknownOpcode_inv hs op
    · exact exec_inv hs hexec
  | waitingForKey x => cases (step_waiting hrun).symm.trans h; exact stepWaiting_inv hs x
  | halted r => cases (step_halted hrun).symm.trans h; exact hs

/-- Settles O19: fetch halts, unknown words, instructions, waits and halted steps each keep the invariant. -/
theorem stepKeepsTheInvariant : Obligations.StepKeepsTheInvariant := fun _ _ hs h => step_inv hs h

theorem writeCells_inv {s : State} (hs : s.Inv) {pbs : List (Nat × Byte)} (hp : ∀ pb ∈ pbs, pb.1 < memSize) :
    (writeCells s pbs).Inv := by
  obtain ⟨hcfg, hmem, hstack, hrun⟩ := hs
  have hmem' := writeCells_wf pbs s hmem hp
  rw [writeCells_eq]
  exact ⟨hcfg, hmem', hstack, hrun⟩

/-- A load keeps the invariant: refused it changes nothing, else the image fits between 0x200 and the end of memory
(R62). -/
theorem afterLoad_inv {s : State} (hs : s.Inv) (b : List Byte) : (afterLoad b s).Inv := by
  rw [afterLoad]
  cases hload : loadImage b s with
  | loadError => exact hs
  | ok t =>
    obtain ⟨hlen, rfl⟩ := loadImage_ok hload
    refine writeCells_inv (resetWith_inv hs.1 s.draws) fun pb hpb => ?_
    obtain ⟨-, hlt⟩ := imageCells_range hpb
    rw [memSize_eq]
    omega

theorem applyEvent_inv {e : Event} {s t : State} (hs : s.Inv) (h : applyEvent e s = .next t) : t.Inv := by
  cases e with
  | step => exact step_inv hs h
  | tick | refreshKeys | ackRender => cases h; exact hs
  | loadImage b => cases h; exact afterLoad_inv hs b

/-- Settles O20: every event keeps the invariant, and so does every schedule. -/
theorem schedulesKeepTheInvariant : Obligations.SchedulesKeepTheInvariant := fun _ _ _ hs hrun =>
  runEvents_keeps (fun _ _ _ _ hu he => applyEvent_inv hu he) hs hrun

end Sys2Proof.Machine
end

section
/-! PROOFS. The step by engine state (R32, R89, R233), and the values at reset (R41). -/

namespace Sys2Proof.Machine

/-- A step of a running engine runs the instruction it is about to execute. -/
theorem step_of_nextInstr {s : State} {i : Instr} (hrun : s.run = .running) (hi : nextInstr s i) :
    step s = exec i s := by
  obtain ⟨op, hfetch, hdecode⟩ := hi
  simp [step, engineStep, hrun, stepRunning, hfetch, hdecode]

/-- Settles O7: the word of the two cells is the one fetched. -/
theorem stepRunsTheDecodedInstruction : Obligations.StepRunsTheDecodedInstruction :=
  fun _ _ _ _ hrun hp hq hdecode => step_of_nextInstr hrun ⟨_, fetch_ok hp hq, hdecode⟩

/-- An unknown word never starts a wait. -/
theorem unknownOpcode_run_ne_waiting {s : State} (hrun : s.run = .running) (op : Word) (x : RegIx) :
    (unknownOpcode op s).run ≠ .waitingForKey x := by
  by_cases hstrict : s.cfg.strictUnknown = true
  · simp [unknownOpcode_strict hstrict]
  · simp [unknownOpcode_logged hstrict, hrun]

/-- FX0A, and nothing else, takes a running engine to a wait, for the register it names. -/
theorem step_running_waits_iff {s t : State} (hrun : s.run = .running) (h : step s = .next t) (x : RegIx) :
    t.run = .waitingForKey x ↔ nextInstr s (.ldVxK x) := by
  constructor
  · intro hwait
    obtain ⟨-, -, rfl⟩ | ⟨op, -, -, -, rfl⟩ | ⟨op, i, hfetch, hdecode, hexec⟩ := step_running_cases hrun h
    · cases hwait
    · exact absurd hwait (unknownOpcode_run_ne_waiting hrun op x)
    · obtain ⟨r, rfl, -⟩ | ⟨-, hkept | ⟨y, rfl, henters⟩, -⟩ := exec_cases hexec
      · cases hwait
      · cases hwait.symm.trans (hkept.trans hrun)
      · cases hwait.symm.trans henters
        exact ⟨op, hfetch, hdecode⟩
  · intro hi
    cases (step_of_nextInstr hrun hi).symm.trans h
    rfl

theorem mem_allKeys (k : RegIx) : k ∈ allKeys := by revert k; decide

theorem anyJustPressed_eq_none_iff {s : State} : anyJustPressed s = none ↔ ∀ k, justPressed s k = false := by
  have hempty : justPressedKeys s = [] ↔ ∀ k, justPressed s k = false := by
    simp [justPressedKeys, List.filter_eq_nil_iff, mem_allKeys]
  rw [← hempty, anyJustPressed]
  cases justPressedKeys s with
  | nil => simp
  | cons k ks => cases ks <;> simp

theorem stepWaiting_run_of_justPressed {s : State} {k : RegIx} (hk : justPressed s k = true) (x : RegIx) :
    (stepWaiting x s).run = .running := by
  cases hany : anyJustPressed s with
  | none => simp [anyJustPressed_eq_none_iff.mp hany k] at hk
  | some j => rw [stepWaiting_some hany]; rfl

theorem loadImage_run {b : List Byte} {s t : State} (h : loadImage b s = .ok t) : t.run = .running := by
  obtain ⟨-, rfl⟩ := loadImage_ok h
  rw [writeCells_eq]
  rfl

/-- Settles O17, clause by clause: reset, the step in each engine state, the host's operations, the load. -/
theorem runStateTransitions : Obligations.RunStateTransitions := by
  refine ⟨rfl, fun s t h => ⟨fun hrun x => step_running_waits_iff hrun h x, fun x hwait => ?_, fun r hhalt => ?_⟩,
    fun s k => ⟨tick_run s, refreshKeys_run s k, ackRender_run s⟩, fun b s t => loadImage_run⟩
  · cases (step_waiting hwait).symm.trans h
    refine ⟨fun ⟨k, hk⟩ => stepWaiting_run_of_justPressed hk x, fun hnone => ?_⟩
    rw [stepWaiting_none (anyJustPressed_eq_none_iff.mpr hnone)]
    exact hwait
  · cases (step_halted hhalt).symm.trans h
    exact hhalt

theorem readV_reset (r : RegIx) : readV State.reset r = 0 := by simp [readV, State.reset, State.resetWith]

/-- Memory after reset is what `resetByte` says: no cell is listed (log 10). -/
theorem readCell_reset (p : Nat) : readCell State.reset p = resetByte defaultConfig p := rfl

theorem resetByte_outside_font {c : Config} {p : Nat} (h : p < c.fontBase ∨ c.fontBase + fontSize ≤ p) :
    resetByte c p = 0 := if_neg (by omega)

theorem reset_keys_up (k : RegIx) :
    State.reset.keys[k.toNat]'k.isLt = false ∧ State.reset.prevKeys[k.toNat]'k.isLt = false := by
  simp [State.reset, State.resetWith]

/-- Settles O57: registers, pixels, keys and memory by their own lemmas, the other components as reset writes them, and
the two glyphs read byte by byte. -/
theorem resetValues : Obligations.ResetValues :=
  ⟨readV_reset, rfl, rfl, rfl, rfl, rfl, rfl, pixel_blankFramebuffer, reset_keys_up, rfl, rfl,
    fun p hp => (readCell_reset p).trans (resetByte_outside_font hp), by decide, by decide⟩

end Sys2Proof.Machine
end

section
/-! PROOFS. Decoding an encoded instruction (R82, R84): the rows of the table are mutually exclusive, so the row that an
instruction's word was written from is the one the decoder finds. -/

namespace Sys2Proof

/-- Among pairwise exclusive candidates, a search finds whichever one satisfies the test. -/
theorem find?_eq_some_of_pairwise_exclusive {α : Type} {p : α → Bool} {l : List α} {a : α}
    (hexcl : l.Pairwise fun x y => ¬(p x = true ∧ p y = true)) (ha : a ∈ l) (hp : p a = true) : l.find? p = some a := by
  induction hexcl with
  | nil => cases ha
  | @cons x l hx _ ih =>
    rcases List.mem_cons.mp ha with rfl | ha
    · exact List.find?_cons_of_pos hp
    · rw [List.find?_cons_of_neg fun hpx => hx a ha ⟨hpx, hp⟩]
      exact ih ha

/-- A word that matches two rows makes their bits agree under the mask of both. -/
theorem bits_agree_of_matches {r₁ r₂ : OpcodeRow} {op : Word} (h₁ : r₁.matchesWord op = true)
    (h₂ : r₂.matchesWord op = true) : r₁.bits &&& r₂.mask = r₂.bits &&& r₁.mask := by
  rw [← eq_of_beq h₁, ← eq_of_beq h₂, BitVec.and_assoc, BitVec.and_assoc, BitVec.and_comm r₁.mask]

/-- The bits of any two rows of the table differ under the mask of both. -/
theorem opcodeTable_bits_disagree :
    opcodeTable.Pairwise fun r₁ r₂ => r₁.bits &&& r₂.mask ≠ r₂.bits &&& r₁.mask := by
  decide

/-- No word matches two rows of the table (R84: "the rows are mutually exclusive"). -/
theorem opcodeTable_exclusive (op : Word) :
    opcodeTable.Pairwise fun r₁ r₂ => ¬(r₁.matchesWord op = true ∧ r₂.matchesWord op = true) :=
  opcodeTable_bits_disagree.imp fun hne ⟨h₁, h₂⟩ => hne (bits_agree_of_matches h₁ h₂)

/-- A word decodes to what the row it matches builds from it, when that is an instruction of the configuration. -/
theorem decode_of_matches {c : Config} {r : OpcodeRow} {op : Word} (hr : r ∈ opcodeTable)
    (hm : r.matchesWord op = true) (hwf : (r.build op).wellFormed c = true) : decode c op = .instr (r.build op) := by
  rw [decode, find?_eq_some_of_pairwise_exclusive (opcodeTable_exclusive op) hr hm]
  exact if_pos hwf

/-- Every instruction has its row in the table, which matches its word and builds it back (R82, R84). -/
theorem encode_hasRow : ∀ i : Instr, Laws.RowOf.Statement i
  | .cls => Laws.RowOf.cls
  | .ret => Laws.RowOf.ret
  | .jp nnn => Laws.RowOf.jp nnn
  | .call nnn => Laws.RowOf.call nnn
  | .seImm x nn => Laws.RowOf.seImm x nn
  | .sneImm x nn => Laws.RowOf.sneImm x nn
  | .seReg x y => Laws.RowOf.seReg x y
  | .ldImm x nn => Laws.RowOf.ldImm x nn
  | .addImm x nn => Laws.RowOf.addImm x nn
  | .ldReg x y => Laws.RowOf.ldReg x y
  | .orReg x y => Laws.RowOf.orReg x y
  | .andReg x y => Laws.RowOf.andReg x y
  | .xorReg x y => Laws.RowOf.xorReg x y
  | .addReg x y => Laws.RowOf.addReg x y
  | .sub x y => Laws.RowOf.sub x y
  | .shr x y => Laws.RowOf.shr x y
  | .subn x y => Laws.RowOf.subn x y
  | .shl x y => Laws.RowOf.shl x y
  | .sneReg x y => Laws.RowOf.sneReg x y
  | .ldI nnn => Laws.RowOf.ldI nnn
  | .jpV0 nnn => Laws.RowOf.jpV0 nnn
  | .rnd x nn => Laws.RowOf.rnd x nn
  | .drw x y n => Laws.RowOf.drw x y n
  | .skp x => Laws.RowOf.skp x
  | .sknp x => Laws.RowOf.sknp x
  | .ldVxDt x => Laws.RowOf.ldVxDt x
  | .ldVxK x => Laws.RowOf.ldVxK x
  | .ldDtVx x => Laws.RowOf.ldDtVx x
  | .ldStVx x => Laws.RowOf.ldStVx x
  | .addIVx x => Laws.RowOf.addIVx x
  | .ldFVx x => Laws.RowOf.ldFVx x
  | .ldBVx x => Laws.RowOf.ldBVx x
  | .ldMemVx x => Laws.RowOf.ldMemVx x
  | .ldVxMem x => Laws.RowOf.ldVxMem x

/-- The decoder reads a well-formed instruction back from its word. -/
theorem decode_encode {c : Config} {i : Instr} (hwf : i.wellFormed c = true) : decode c (encode i) = .instr i := by
  obtain ⟨r, hr, -, hm, hbuild⟩ := encode_hasRow i
  rw [decode_of_matches hr hm (by rwa [hbuild]), hbuild]

/-- From its two bytes the decoder reads what it reads from the word, and leaves the bytes after them (R54, R81). -/
theorem decodeBytes_encodeBytes (c : Config) (i : Instr) (rest : List Byte) :
    decodeBytes c (encodeBytes i ++ rest) = (decode c (encode i), rest) := by
  simp [encodeBytes, decodeBytes]

/-- Settles O2: the instruction's own row is the one that matches its word, and the two bytes make up that word. -/
theorem decodeEncodeAgree : Obligations.DecodeEncodeAgree := fun c i rest hwf =>
  ⟨decode_encode hwf, by rw [decodeBytes_encodeBytes, decode_encode hwf]⟩

end Sys2Proof
end

section
/-! PROOFS. What the next step fetches (R54, R65, R80): a fetch in range reads the cells at PC and PC + 1, so it sees what
was placed or stored there; out of range it halts the step (R53, R264). -/

namespace Sys2Proof.Machine

/-- A fetch in range gives the word of the cells at PC and PC + 1, high byte first (R54, R56, R80). -/
theorem fetch_of_fits {s : State} (h : fitsMemory s.cfg s.pc.toNat 2) :
    fetch s = .ok (bigEndian (readCell s (s.pc.toNat % memSize)) (readCell s ((s.pc.toNat + 1) % memSize))) := by
  obtain ⟨op, hop⟩ := fetch_ok_iff.mpr h
  unfold fetch at hop ⊢
  split at hop
  case h_1 p q hp hq => rw [phys_eq_mod hp, phys_eq_mod hq]
  case h_2 => cases hop

theorem fetch_of_not_fits {s : State} (h : ¬ fitsMemory s.cfg s.pc.toNat 2) :
    fetch s = .error .addressOutOfRange := by
  cases hf : fetch s with
  | ok op => exact absurd (fetch_ok_iff.mp ⟨op, hf⟩) h
  | error r => rw [fetch_error hf]

/-- A fetch out of range halts a running engine before anything else (R264). -/
theorem step_of_fetch_error {s : State} {r : HaltReason} (hrun : s.run = .running) (hf : fetch s = .error r) :
    step s = .next (raiseHalt r s) := by
  simp [step, engineStep, hrun, stepRunning, hf]

/-- Settles O10: from 4095 on the two bytes at PC are not in range. -/
theorem fetchOutOfRangeHaltsFirst : Obligations.FetchOutOfRangeHaltsFirst := by
  intro s hrun hfatal hpc
  have hout : ¬ fitsMemory s.cfg s.pc.toNat 2 := by
    simp only [fitsMemory, hfatal, memSize_eq, reduceCtorEq, false_or]
    omega
  exact ⟨_, step_of_fetch_error hrun (fetch_of_not_fits hout), rfl⟩

/-! ### A word placed where the next step fetches it (logs 6 and 13) -/

@[simp] theorem readyToFetch_cfg (s : State) : (readyToFetch s).cfg = s.cfg := by
  unfold readyToFetch
  split <;> rfl

@[simp] theorem readyToFetch_mem (s : State) : (readyToFetch s).mem = s.mem := by
  unfold readyToFetch
  split <;> rfl

@[simp] theorem readyToFetch_run (s : State) : (readyToFetch s).run = .running := by
  unfold readyToFetch
  split <;> rfl

/-- A state made ready to fetch has both bytes at its PC in range: its PC was, or is the reset entry point. -/
theorem readyToFetch_fits (s : State) : fitsMemory s.cfg (readyToFetch s).pc.toNat 2 := by
  unfold readyToFetch
  split
  case h_1 ps hps => exact physRange_isSome_iff.mp (by simp [hps])
  case h_2 => exact .inr (.inr (by simp))

/-- Placing a word stores its two bytes at the PC of the state made ready to fetch. -/
theorem placeWord_stores (s : State) (w : Word) :
    storeBytes (readyToFetch s) (readyToFetch s).pc.toNat [highByte w, lowByte w] = .ok (placeWord s w) := by
  obtain ⟨ps, hps⟩ := physRange_of_fits (readyToFetch_fits s)
  have hstore := storeBytes_ok (s := readyToFetch s) (bs := [highByte w, lowByte w])
    ((readyToFetch_cfg s).symm ▸ hps)
  rw [placeWord, hstore]

/-- Placing a word changes nothing but memory in the state made ready to fetch. -/
theorem placeWord_eq (s : State) (w : Word) :
    placeWord s w = { readyToFetch s with mem := (placeWord s w).mem } := by
  obtain ⟨-, -, heq, -⟩ := storeBytes_spec (placeWord_stores s w)
  exact heq

@[simp] theorem placeWord_cfg (s : State) (w : Word) : (placeWord s w).cfg = s.cfg := by
  rw [placeWord_eq, readyToFetch_cfg]

@[simp] theorem placeWord_run (s : State) (w : Word) : (placeWord s w).run = .running := by
  rw [placeWord_eq, readyToFetch_run]

@[simp] theorem placeWord_pc (s : State) (w : Word) : (placeWord s w).pc = (readyToFetch s).pc := by
  rw [placeWord_eq]

/-- The word that was placed is the one fetched (R54, R63). -/
theorem fetch_placeWord {s : State} (hmem : Memory.wf s.cfg s.mem) (w : Word) : fetch (placeWord s w) = .ok w := by
  have hcell := storeBytes_bytes (by simpa using hmem) (by simp) (placeWord_stores s w)
  have hhigh : readCell (placeWord s w) ((readyToFetch s).pc.toNat % memSize) = highByte w := hcell 0 (by simp)
  have hlow : readCell (placeWord s w) (((readyToFetch s).pc.toNat + 1) % memSize) = lowByte w := hcell 1 (by simp)
  rw [fetch_of_fits (by simpa using readyToFetch_fits s), placeWord_pc, hhigh, hlow, bigEndian_bytes]

/-- Placing the 16 bits of a word is placing the word. -/
theorem withFetchWord_toNat (s : State) (w : Word) : s.withFetchWord 16 w.toNat = placeWord s w := by
  rw [State.withFetchWord, Nat.mod_eq_of_lt w.isLt, BitVec.ofNat_toNat, BitVec.setWidth_eq]

/-- Settles O8: the engine runs, and fetches the word that was placed. -/
theorem placedWordIsFetchedAndRun : Obligations.PlacedWordIsFetchedAndRun := by
  intro s w i hmem hdecode
  rw [withFetchWord_toNat]
  refine step_of_nextInstr (placeWord_run s w) ⟨w, fetch_placeWord hmem w, ?_⟩
  rwa [placeWord_cfg]

/-! ### A register dump over the next instruction (R65, R185) -/

theorem regsUpTo_getElem (s : State) (x : RegIx) (k : Nat) (hk : k < (regsUpTo s x).length) :
    (regsUpTo s x)[k] = readV s (BitVec.ofNat 4 k) := by
  simp [regsUpTo]

/-- A register dump in range leaves V0 to VX in the cells from I on, and PC two further (R90, R185). -/
theorem execLdMemVx_stores {x : RegIx} {s t : State} (hmem : Memory.wf s.cfg s.mem)
    (hfits : fitsMemory s.cfg s.iReg.toNat (x.toNat + 1)) (h : exec (.ldMemVx x) s = .next t) :
    t.pc = s.pc + 2 ∧ ∀ k ≤ x.toNat, readCell t ((s.iReg.toNat + k) % memSize) = readV s (BitVec.ofNat 4 k) := by
  obtain ⟨ps, hps⟩ := physRange_of_fits hfits
  cases (execLdMemVx_ok hps).symm.trans h
  rw [incrementI_eq]
  refine ⟨by rw [writeCells_eq]; rfl, fun k hk => ?_⟩
  have hlen : k < (regsUpTo s x).length := by rw [regsUpTo_length]; omega
  have hstore := storeBytes_ok (bs := regsUpTo s x) ((regsUpTo_length s x).symm ▸ hps)
  have hx := x.isLt
  rw [← regsUpTo_getElem s x k hlen, ← storeBytes_bytes hmem (by simp; omega) hstore k hlen]
  rfl

/-- An access in range has every shorter one at the same address in range. -/
theorem fitsMemory_of_le {c : Config} {a m n : Nat} (hle : m ≤ n) (h : fitsMemory c a n) : fitsMemory c a m :=
  h.imp_right fun hend => by omega

/-- Settles O44: the next fetch is at the I of the dump, where V0 and V1 were stored. -/
theorem storeIsSeenByTheNextFetch : Obligations.StoreIsSeenByTheNextFetch := by
  intro x s t hmem hx hI hfits hexec
  obtain ⟨hpc, hcell⟩ := execLdMemVx_stores hmem hfits hexec
  rw [← hI] at hpc
  have hfits2 : fitsMemory t.cfg t.pc.toNat 2 := by
    rw [exec_cfg hexec, hpc]
    exact fitsMemory_of_le (by omega) hfits
  have hv0 : readCell t (s.iReg.toNat % memSize) = readV s 0 := hcell 0 (Nat.zero_le _)
  have hv1 : readCell t ((s.iReg.toNat + 1) % memSize) = readV s 1 := hcell 1 hx
  rw [fetch_of_fits hfits2, hpc, hv0, hv1, bigEndian]

end Sys2Proof.Machine
end

section
/-! PROOFS. Memory as a whole: its canonical form is unique (R50; log 10), and what a program load leaves in it (R62). -/

namespace Sys2Proof.Machine

theorem Memory.wfFrom_cons {c : Config} {lo q : Nat} {b : Byte} {m : Memory} :
    Memory.wfFrom c lo ((q, b) :: m) = true ↔
      lo ≤ q ∧ q < memSize ∧ b ≠ resetByte c q ∧ Memory.wfFrom c (q + 1) m = true := by
  simp [Memory.wfFrom, and_assoc]

/-- Below its first cell a canonical memory is at its reset contents. -/
theorem Memory.read_of_lt {c : Config} {lo p : Nat} {m : Memory} (h : Memory.wfFrom c lo m = true) (hp : p < lo) :
    Memory.read c m p = resetByte c p := by
  induction m generalizing lo with
  | nil => rfl
  | cons qb m ih =>
    obtain ⟨hlo, -, -, htail⟩ := Memory.wfFrom_cons.mp h
    rw [Memory.read, if_neg (by omega)]
    exact ih htail (by omega)

/-- A listed cell is not at its reset contents, so no memory that lists only later cells reads alike there. -/
theorem Memory.read_head_ne {c : Config} {lo q : Nat} {b : Byte} {m m' : Memory}
    (h : Memory.wfFrom c lo ((q, b) :: m) = true) (h' : Memory.wfFrom c (q + 1) m' = true) :
    Memory.read c ((q, b) :: m) q ≠ Memory.read c m' q := by
  obtain ⟨-, -, hb, -⟩ := Memory.wfFrom_cons.mp h
  rw [Memory.read_of_lt h' q.lt_succ_self, Memory.read, if_pos rfl]
  exact hb

/-- Canonical memories that read alike from `lo` on are equal: they list the same first cell, and then the same rest. -/
theorem Memory.eq_of_read_eq {c : Config} {lo : Nat} {m₁ m₂ : Memory} (h₁ : Memory.wfFrom c lo m₁ = true)
    (h₂ : Memory.wfFrom c lo m₂ = true)
    (hread : ∀ p, lo ≤ p → p < memSize → Memory.read c m₁ p = Memory.read c m₂ p) : m₁ = m₂ := by
  induction m₁ generalizing lo m₂ with
  | nil =>
    cases m₂ with
    | nil => rfl
    | cons qb m₂ =>
      obtain ⟨hlo, hlt, -, -⟩ := Memory.wfFrom_cons.mp h₂
      exact absurd (hread _ hlo hlt).symm (Memory.read_head_ne h₂ rfl)
  | cons qb m₁ ih =>
    obtain ⟨q, b⟩ := qb
    obtain ⟨hlo, hlt, hb, htail⟩ := Memory.wfFrom_cons.mp h₁
    cases m₂ with
    | nil => exact absurd (hread q hlo hlt) (Memory.read_head_ne h₁ rfl)
    | cons qb' m₂ =>
      obtain ⟨q', b'⟩ := qb'
      obtain ⟨hlo', hlt', hb', htail'⟩ := Memory.wfFrom_cons.mp h₂
      rcases Nat.lt_trichotomy q q' with hq | rfl | hq
      · exact absurd (hread q hlo hlt)
          (Memory.read_head_ne h₁ (Memory.wfFrom_cons.mpr ⟨hq, hlt', hb', htail'⟩))
      · have hbytes : b = b' := by simpa [Memory.read] using hread q hlo hlt
        have hrest : m₁ = m₂ := ih htail htail' fun p hqp hp => by
          simpa [Memory.read, show q ≠ p by omega] using hread p (by omega) hp
        rw [hbytes, hrest]
      · exact absurd (hread q' hlo' hlt').symm
          (Memory.read_head_ne h₂ (Memory.wfFrom_cons.mpr ⟨hq, hlt, hb, htail⟩))

/-- Settles O45: the canonical form from cell 0 on. -/
theorem memoriesThatReadAlikeAreEqual : Obligations.MemoriesThatReadAlikeAreEqual :=
  fun _ _ _ h₁ h₂ hread => Memory.eq_of_read_eq h₁ h₂ fun p _ hp => hread p hp

/-! ### Program load (R62) -/

theorem loadImage_refuses {b : List Byte} (h : 3584 < b.length) (s : State) : loadImage b s = .loadError :=
  if_pos h

theorem loadImage_accepts {b : List Byte} (h : b.length ≤ 3584) (s : State) :
    loadImage b s = .ok (writeCells (resetMachine s) (imageCells b)) := if_neg (Nat.not_lt.mpr h)

/-- A load is the event of its answer: the loaded state, or no change. -/
theorem applyEvent_loadImage_ok {b : List Byte} {s t : State} (h : loadImage b s = .ok t) :
    applyEvent (.loadImage b) s = .next t := by simp [applyEvent, afterLoad, h]

theorem applyEvent_loadImage_refused {b : List Byte} {s : State} (h : loadImage b s = .loadError) :
    applyEvent (.loadImage b) s = .next s := by simp [applyEvent, afterLoad, h]

theorem readCell_resetMachine (s : State) (p : Nat) : readCell (resetMachine s) p = resetByte s.cfg p := rfl

/-- The cell of byte `k` of an image. -/
theorem mem_imageCells {b : List Byte} {k : Nat} (hk : k < b.length) : (0x200 + k, b[k]) ∈ imageCells b :=
  List.mem_iff_getElem.mpr ⟨k, by simpa [imageCells] using hk, by simp [imageCells]⟩

theorem imageCells_nodup (b : List Byte) : ((imageCells b).map (·.1)).Nodup := by
  rw [imageCells, List.map_fst_zip (by simp)]
  exact List.nodup_range'

/-- The bytes of an image that fits stand from 0x200 on. -/
theorem readCell_image {b : List Byte} (hlen : b.length ≤ 3584) (s : State) {k : Nat} (hk : k < b.length) :
    readCell (writeCells (resetMachine s) (imageCells b)) (0x200 + k) = b[k] := by
  refine readCell_writeCells_mem _ _ (Memory.wf_nil s.cfg) (fun pb hpb => ?_) (imageCells_nodup b) (mem_imageCells hk)
  obtain ⟨-, hlt⟩ := imageCells_range hpb
  rw [memSize_eq]
  omega

/-- Outside the image a load leaves the reset contents. -/
theorem readCell_outside_image (b : List Byte) (s : State) {p : Nat} (hp : p < 0x200 ∨ 0x200 + b.length ≤ p) :
    readCell (writeCells (resetMachine s) (imageCells b)) p = resetByte s.cfg p := by
  rw [readCell_writeCells_ne, readCell_resetMachine]
  intro pb hpb
  obtain ⟨hge, hlt⟩ := imageCells_range hpb
  omega

/-- A load changes only memory of the state that the reset gives. -/
theorem loaded_eq (b : List Byte) (s : State) : writeCells (resetMachine s) (imageCells b) =
    { State.resetWith s.cfg (writeCells (resetMachine s) (imageCells b)).draws with
      mem := (writeCells (resetMachine s) (imageCells b)).mem } := by
  rw [writeCells_eq]
  rfl

/-- Settles O56: refused whole, or the reset state with the image's cells written. -/
theorem loadImageIsAllOrNothing : Obligations.LoadImageIsAllOrNothing := fun b s =>
  ⟨fun hbig => ⟨loadImage_refuses hbig s, applyEvent_loadImage_refused (loadImage_refuses hbig s)⟩,
   fun hlen => ⟨_, loadImage_accepts hlen s, applyEvent_loadImage_ok (loadImage_accepts hlen s),
    fun _ hk => readCell_image hlen s hk, fun _ hp => readCell_outside_image b s hp, loaded_eq b s⟩⟩

end Sys2Proof.Machine
end

section
/-! PROOFS. Words as numbers (R82, R84): a word matches a row when its class nibble and its low bits are the row's, and it
is then the encoding of what the row builds. From this follow the other direction of the round trip, the decodable words by
class (R85, R86), and their count (R87). -/

namespace Sys2Proof

open Machine

/-! ### Formats, fields and masks as arithmetic -/

theorem toNat_append_eq {m n : Nat} (a : BitVec m) (b : BitVec n) : (a ++ b).toNat = a.toNat * 2 ^ n + b.toNat := by
  rw [BitVec.toNat_append, ← Nat.shiftLeft_add_eq_or_of_lt b.isLt, Nat.shiftLeft_eq]

@[simp] theorem toNat_formatA (c : BitVec 4) (nnn : BitVec 12) : (formatA c nnn).toNat = c.toNat * 4096 + nnn.toNat :=
  toNat_append_eq c nnn

@[simp] theorem toNat_formatXNN (c : BitVec 4) (x : RegIx) (nn : Byte) :
    (formatXNN c x nn).toNat = c.toNat * 4096 + (x.toNat * 256 + nn.toNat) :=
  (toNat_formatA c (x ++ nn)).trans (congrArg _ (toNat_append_eq x nn))

@[simp] theorem toNat_formatXYN (c : BitVec 4) (x y : RegIx) (n : BitVec 4) :
    (formatXYN c x y n).toNat = c.toNat * 4096 + (x.toNat * 256 + (y.toNat * 16 + n.toNat)) :=
  (toNat_formatXNN c x (y ++ n)).trans (congrArg (fun nn => c.toNat * 4096 + (x.toNat * 256 + nn)) (toNat_append_eq y n))

@[simp] theorem toNat_fieldX (op : Word) : (fieldX op).toNat = op.toNat / 256 % 16 := by
  simp [fieldX, Nat.shiftRight_eq_div_pow]

@[simp] theorem toNat_fieldY (op : Word) : (fieldY op).toNat = op.toNat / 16 % 16 := by
  simp [fieldY, Nat.shiftRight_eq_div_pow]

@[simp] theorem toNat_fieldN (op : Word) : (fieldN op).toNat = op.toNat % 16 := by simp [fieldN]

@[simp] theorem toNat_fieldNN (op : Word) : (fieldNN op).toNat = op.toNat % 256 := by simp [fieldNN]

@[simp] theorem toNat_fieldNNN (op : Word) : (fieldNNN op).toNat = op.toNat % 4096 := by simp [fieldNNN]

/-- The class nibble of a word (R82). -/
def fieldClass (op : Word) : BitVec 4 := op.extractLsb' 12 4

theorem toNat_fieldClass (op : Word) : (fieldClass op).toNat = op.toNat / 4096 := by
  have := op.isLt
  simp [fieldClass, Nat.shiftRight_eq_div_pow]
  omega

/-- Every word is made of its four nibbles. -/
theorem formatXYN_fields (op : Word) : formatXYN (fieldClass op) (fieldX op) (fieldY op) (fieldN op) = op := by
  apply BitVec.eq_of_toNat_eq
  rw [toNat_formatXYN, toNat_fieldClass, toNat_fieldX, toNat_fieldY, toNat_fieldN]
  omega

/-- Every word is made of its class, its x and its low byte. -/
theorem formatXNN_fields (op : Word) : formatXNN (fieldClass op) (fieldX op) (fieldNN op) = op := by
  apply BitVec.eq_of_toNat_eq
  rw [toNat_formatXNN, toNat_fieldClass, toNat_fieldX, toNat_fieldNN]
  omega

theorem toNat_and_classMask (op : Word) : (op &&& 0xF000).toNat = op.toNat / 4096 * 4096 := by
  rw [← formatXYN_fields op, formatXYN_classMask, formatXYN_fields, toNat_formatA, toNat_fieldClass]
  simp

theorem toNat_and_classNibbleMask (op : Word) :
    (op &&& 0xF00F).toNat = op.toNat / 4096 * 4096 + op.toNat % 16 := by
  rw [← formatXYN_fields op, formatXYN_mask, formatXYN_fields, toNat_formatXYN, toNat_fieldClass, toNat_fieldN]
  simp

theorem toNat_and_classByteMask (op : Word) :
    (op &&& 0xF0FF).toNat = op.toNat / 4096 * 4096 + op.toNat % 256 := by
  rw [← formatXNN_fields op, formatXNN_mask, formatXNN_fields, toNat_formatXNN, toNat_fieldClass, toNat_fieldNN]
  simp

/-! ### The rows of the table -/

/-- How many values the low bits under the mask of a row can take: 4096 for a fixed word, 256 for a sub-opcode in nn, 16
for one in n, 1 for a row of a whole class. -/
def OpcodeRow.lowModulus (r : OpcodeRow) : Nat := r.mask.toNat % 4096 + 1

/-- The rows of the table look at all of the word, or at its class and at no, four or eight low bits (R84). -/
theorem opcodeTable_masks : ∀ r ∈ opcodeTable, r.mask ∈ [0xFFFF, 0xF000, 0xF00F, 0xF0FF] := by decide

theorem opcodeTable_bits_masked : ∀ r ∈ opcodeTable, r.bits &&& r.mask = r.bits := by decide

/-- Under the mask of a row, the class and the low bits of a word are left. -/
theorem toNat_and_mask {r : OpcodeRow} (hr : r ∈ opcodeTable) (op : Word) :
    (op &&& r.mask).toNat = op.toNat / 4096 * 4096 + op.toNat % r.lowModulus := by
  have hmask := opcodeTable_masks r hr
  simp only [List.mem_cons, List.not_mem_nil, or_false] at hmask
  obtain hm | hm | hm | hm := hmask <;> simp only [OpcodeRow.lowModulus, hm]
  · rw [show op &&& 0xFFFF = op from BitVec.and_allOnes]
    exact (Nat.div_add_mod' _ _).symm
  · rw [toNat_and_classMask]
    exact (Nat.add_zero _).symm.trans (congrArg _ (Nat.mod_one _).symm)
  · exact toNat_and_classNibbleMask op
  · exact toNat_and_classByteMask op

/-- A word matches a row when it has the row's class nibble and the row's low bits. -/
theorem matchesWord_iff {r : OpcodeRow} (hr : r ∈ opcodeTable) (op : Word) : r.matchesWord op = true ↔
    op.toNat / 4096 = r.bits.toNat / 4096 ∧ op.toNat % r.lowModulus = r.bits.toNat % r.lowModulus := by
  have hle : r.lowModulus ≤ 4096 := by unfold OpcodeRow.lowModulus; omega
  have hlow (w : Word) : w.toNat % r.lowModulus < r.lowModulus := Nat.mod_lt _ (Nat.succ_pos _)
  have hop := hlow op
  have hlowBits := hlow r.bits
  have hbits := toNat_and_mask hr r.bits
  rw [opcodeTable_bits_masked r hr] at hbits
  rw [OpcodeRow.matchesWord, beq_iff_eq, ← BitVec.toNat_inj, toNat_and_mask hr]
  omega

/-- A word that matches a row is the encoding of what the row builds from it (R82, R84). -/
theorem encode_build_of_matches {r : OpcodeRow} (hr : r ∈ opcodeTable) {op : Word} (hm : r.matchesWord op = true) :
    encode (r.build op) = op := by
  obtain ⟨hclass, hlow⟩ := (matchesWord_iff hr op).mp hm
  apply BitVec.eq_of_toNat_eq
  simp only [opcodeTable, opcodeRowsLow, opcodeRowsAlu, opcodeRowsHigh, List.cons_append, List.nil_append] at hr
  fin_cases hr
  all_goals
    simp [encode, OpcodeRow.lowModulus] at hclass hlow ⊢
    omega

/-- Settles O1: the words are the instructions' own encodings; the rejected two match a timer's row and no row. -/
theorem sampleWordsDecode : Obligations.SampleWordsDecode :=
  ⟨decode_encode (i := .cls) rfl, decode_encode (i := .call 0x208) rfl, decode_encode (i := .addImm 0xA 0x01) rfl,
    decode_encode (i := .shl 1 2) rfl, decode_encode (i := .drw 0xA 0xB 0xF) rfl, decode_encode (i := .sknp 1) rfl,
    decode_encode (i := .ldVxDt 1) rfl, decode_encode (i := .ldVxMem 0xF) rfl, by decide, by decide⟩

/-- Settles O3: the row that the decoder found matches the word. -/
theorem decodedWordIsItsEncoding : Obligations.DecodedWordIsItsEncoding := by
  intro c op i h
  obtain ⟨r, hr, hm, rfl, hwf⟩ := decode_instr h
  exact ⟨encode_build_of_matches hr hm, hwf⟩

/-- At most one row matches a word: a search of the table finds whichever does. -/
theorem row_eq_of_matches {r₁ r₂ : OpcodeRow} {op : Word} (hr₁ : r₁ ∈ opcodeTable) (hr₂ : r₂ ∈ opcodeTable)
    (hm₁ : r₁.matchesWord op = true) (hm₂ : r₂.matchesWord op = true) : r₁ = r₂ :=
  Option.some.inj ((find?_eq_some_of_pairwise_exclusive (opcodeTable_exclusive op) hr₁ hm₁).symm.trans
    (find?_eq_some_of_pairwise_exclusive (opcodeTable_exclusive op) hr₂ hm₂))

/-- Settles O4: the two rows are one. -/
theorem opcodeRowsMutuallyExclusive : Obligations.OpcodeRowsMutuallyExclusive :=
  fun _ _ _ hr₁ hr₂ hbits₁ hbits₂ =>
    congrArg OpcodeRow.mnemonic (row_eq_of_matches hr₁ hr₂ (beq_iff_eq.mpr hbits₁) (beq_iff_eq.mpr hbits₂))

/-! ### The decodable words by class (R85, R86) -/

/-- The decodable words are those that match a row whose instruction the configuration has. -/
theorem exists_decode_instr_iff {c : Config} {op : Word} : (∃ i, decode c op = .instr i) ↔
    ∃ r ∈ opcodeTable, r.matchesWord op = true ∧ (r.build op).wellFormed c = true := by
  constructor
  · rintro ⟨i, h⟩
    obtain ⟨r, hr, hm, rfl, hwf⟩ := decode_instr h
    exact ⟨r, hr, hm, hwf⟩
  · rintro ⟨r, hr, hm, hwf⟩
    exact ⟨_, decode_of_matches hr hm hwf⟩

/-- Matching a row, under any further condition, is having the row's class nibble and low bits. -/
theorem exists_matchesWord_iff {op : Word} {P : OpcodeRow → Prop} :
    (∃ r ∈ opcodeTable, r.matchesWord op = true ∧ P r) ↔ ∃ r ∈ opcodeTable,
      (op.toNat / 4096 = r.bits.toNat / 4096 ∧ op.toNat % r.lowModulus = r.bits.toNat % r.lowModulus) ∧ P r :=
  exists_congr fun r => and_congr_right fun hr => by rw [matchesWord_iff hr]

/-- Two words are equal when their class nibbles and their other twelve bits are. -/
theorem word_eq_iff (op w : Word) : op = w ↔ op.toNat / 4096 = w.toNat / 4096 ∧ op.toNat % 4096 = w.toNat % 4096 := by
  rw [← BitVec.toNat_inj]
  omega

/-- Settles O5: both sides speak of the class nibble and of low bits, and are compared class by class. -/
theorem decodableWordsByClass : Obligations.DecodableWordsByClass := by
  intro c op
  rw [exists_decode_instr_iff, exists_matchesWord_iff, word_eq_iff op 0x00E0, word_eq_iff op 0x00EE]
  have hclass : op.toNat / 4096 < 16 := by omega
  generalize op.toNat / 4096 = k at hclass ⊢
  simp [opcodeTable, opcodeRowsLow, opcodeRowsAlu, opcodeRowsHigh, OpcodeRow.lowModulus, Instr.wellFormed, Nat.mod_one]
  interval_cases k
  all_goals simp
  -- Class F is left: the statement lists its timer words apart from the others (R86).
  tauto

/-! ### Counting the decodable words (R87) -/

/-- Whether the decoder's answer is an instruction. -/
def Decoded.isInstr : Decoded → Bool
  | .instr _ => true
  | .rejected _ => false

theorem Decoded.isInstr_iff {d : Decoded} : d.isInstr = true ↔ ∃ i, d = .instr i := by
  cases d <;> simp [Decoded.isInstr]

theorem wellFormed_of_timerOps {c : Config} (hc : c.timerOps = true) (i : Instr) : i.wellFormed c = true := by
  cases i <;> simp [Instr.wellFormed, hc]

/-- With `TIMER_OPS` the decodable words are those that match a row. -/
theorem isInstr_decode_eq_any {c : Config} (hc : c.timerOps = true) (op : Word) :
    (decode c op).isInstr = opcodeTable.any (·.matchesWord op) := by
  rw [Bool.eq_iff_iff, Decoded.isInstr_iff, exists_decode_instr_iff]
  simp [wellFormed_of_timerOps hc]

theorem countP_or_of_exclusive {α : Type} {p q : α → Bool} {l : List α} (hexcl : ∀ a, ¬(p a = true ∧ q a = true)) :
    l.countP (fun a => p a || q a) = l.countP p + l.countP q := by
  induction l with
  | nil => rfl
  | cons a l ih =>
    simp only [List.countP_cons, ih]
    cases hp : p a with
    | false => simp [Nat.add_assoc]
    | true => simp [show q a = false by simpa [hp] using hexcl a, Nat.add_right_comm]

/-- Tests that exclude each other in pairs count, taken together, what they count one by one. -/
theorem countP_any_of_pairwise_exclusive {α β : Type} {p : α → β → Bool} {rows : List α} {l : List β}
    (hexcl : ∀ b, rows.Pairwise fun x y => ¬(p x b = true ∧ p y b = true)) :
    l.countP (fun b => rows.any (p · b)) = (rows.map fun r => l.countP (p r)).sum := by
  induction rows with
  | nil => simp
  | cons r rows ih =>
    have hcons b := List.pairwise_cons.mp (hexcl b)
    have hdisjoint : ∀ b, ¬(p r b = true ∧ rows.any (p · b) = true) := by
      rintro b ⟨hr, hany⟩
      obtain ⟨x, hx, hxb⟩ := List.any_eq_true.mp hany
      exact (hcons b).1 x hx ⟨hr, hxb⟩
    simp only [List.any_cons, List.map_cons, List.sum_cons]
    rw [countP_or_of_exclusive hdisjoint, ih fun b => (hcons b).2]

/-- Of the numbers below `l * (n * m)`, those with a given quotient by `n * m` and a given remainder by `n` are `m`: one
for each value of the digit between. -/
theorem count_div_mod {l m n c k : Nat} (hc : c < l) (hk : k < n) :
    Nat.count (fun w => w / (n * m) = c ∧ w % n = k) (l * (n * m)) = m := by
  have hdiv (q : Nat) : (n * q + k) / n = q := by
    rw [Nat.mul_add_div (Nat.zero_lt_of_lt hk), Nat.div_eq_of_lt hk, Nat.add_zero]
  rw [Nat.count_eq_card_filter_range]
  refine (Finset.card_nbij' (t := Finset.range m) (fun w => w / n % m) (fun t => n * (m * c + t) + k)
    ?_ ?_ ?_ ?_).trans (Finset.card_range m)
  · intro w hw
    obtain ⟨hlt, -⟩ := Finset.mem_filter.mp hw
    have hm : m ≠ 0 := by
      rintro rfl
      simp at hlt
    exact Finset.mem_range.mpr (Nat.mod_lt _ (Nat.pos_of_ne_zero hm))
  · intro t ht
    have ht := Finset.mem_range.mp ht
    rw [Finset.mem_coe, Finset.mem_filter, Finset.mem_range, ← Nat.div_div_eq_div_mul, hdiv,
      Nat.mul_add_div (by omega), Nat.div_eq_of_lt ht, Nat.mul_add_mod, Nat.mod_eq_of_lt hk]
    refine ⟨?_, rfl, rfl⟩
    calc n * (m * c + t) + k < n * (m * c + t + 1) := by rw [Nat.mul_succ]; omega
      _ ≤ n * (m * (c + 1)) := Nat.mul_le_mul_left n (by rw [Nat.mul_succ]; omega)
      _ ≤ n * (m * l) := Nat.mul_le_mul_left n (Nat.mul_le_mul_left m hc)
      _ = l * (n * m) := by ring
  · intro w hw
    obtain ⟨-, rfl, rfl⟩ := Finset.mem_filter.mp hw
    beta_reduce
    rw [← Nat.div_div_eq_div_mul, Nat.div_add_mod, Nat.div_add_mod]
  · intro t ht
    beta_reduce
    rw [hdiv, Nat.mul_add_mod, Nat.mod_eq_of_lt (Finset.mem_range.mp ht)]

/-- The words that match a row are as many as the values of the bits that the row's mask leaves out. -/
theorem countP_matchesWord {r : OpcodeRow} (hr : r ∈ opcodeTable) :
    (List.range 65536).countP (fun w => r.matchesWord (BitVec.ofNat 16 w)) = 4096 / r.lowModulus := by
  have hsplit : r.lowModulus * (4096 / r.lowModulus) = 4096 := by
    revert r
    decide
  have hcount := count_div_mod (l := 16) (n := r.lowModulus) (m := 4096 / r.lowModulus) (c := r.bits.toNat / 4096)
    (k := r.bits.toNat % r.lowModulus) (by omega) (Nat.mod_lt _ (Nat.succ_pos _))
  rw [hsplit] at hcount
  rw [← hcount]
  refine List.countP_congr fun w hw => ?_
  rw [matchesWord_iff hr, BitVec.toNat_ofNat, Nat.mod_eq_of_lt (List.mem_range.mp hw), decide_eq_true_iff]

/-- The rows exclude each other, so the decodable words are counted row by row. -/
theorem countP_isInstr {c : Config} (hc : c.timerOps = true) :
    (List.range 65536).countP (fun w => (decode c (BitVec.ofNat 16 w)).isInstr) = 43954 := by
  simp only [isInstr_decode_eq_any hc]
  rw [countP_any_of_pairwise_exclusive fun w => opcodeTable_exclusive _,
    List.map_congr_left fun r hr => countP_matchesWord hr]
  decide

theorem countP_not_isInstr {c : Config} (hc : c.timerOps = true) :
    (List.range 65536).countP (fun w => !(decode c (BitVec.ofNat 16 w)).isInstr) = 21582 := by
  have htotal := (List.range 65536).length_eq_countP_add_countP fun w => (decode c (BitVec.ofNat 16 w)).isInstr
  simp only [countP_isInstr hc, List.length_range, Bool.not_eq_true, Bool.decide_eq_false] at htotal
  omega

/-- Settles O6: with `TIMER_OPS` every row is an instruction's; without it the three timer rows are not. -/
theorem decodableWordCount : Obligations.DecodableWordCount := by
  intro c
  refine ⟨fun hc => ⟨?_, countP_isInstr hc, ?_⟩, fun hc => ?_⟩
  · rw [List.filter_eq_self.mpr fun r _ => wellFormed_of_timerOps hc _]
    rfl
  · rw [← countP_not_isInstr hc]
    refine List.countP_congr fun w _ => ?_
    cases decode c (BitVec.ofNat 16 w) <;> simp [Decoded.isInstr]
  · simp [opcodeTable, opcodeRowsLow, opcodeRowsAlu, opcodeRowsHigh, Instr.wellFormed, hc]

end Sys2Proof
end

section
/-! PROOFS. Every instruction, step and schedule answers a next state (R261, R262); what an unknown word does (R92), how
long a halt lasts (R263), and where PC is after an instruction (R90). -/

namespace Sys2Proof.Machine

/-! ### Unknown words, and the answers of steps and schedules -/

/-- A running engine that fetches an unknown word does what R92 says of it. -/
theorem step_of_unknown {s : State} {op : Word} {e : DecodeError} (hrun : s.run = .running) (hf : fetch s = .ok op)
    (hd : decode s.cfg op = .rejected e) : step s = .next (unknownOpcode op s) := by
  simp [step, engineStep, hrun, stepRunning, hf, hd]

/-- Settles O9: the two arms of R92. -/
theorem unknownWordIsLoggedOrHalts : Obligations.UnknownWordIsLoggedOrHalts := by
  intro s op e hrun hf hd
  rw [step_of_unknown hrun hf hd]
  refine ⟨fun hstrict => ⟨_, rfl, unknownOpcode_strict hstrict op⟩, fun hlenient => ?_⟩
  rw [unknownOpcode_logged (by simp [hlenient])]
  rfl

theorem step_answers (s : State) : ∃ t, step s = .next t := by
  cases hrun : s.run with
  | running =>
    cases hf : fetch s with
    | error r => exact ⟨_, step_of_fetch_error hrun hf⟩
    | ok op =>
      cases hd : decode s.cfg op with
      | instr i => rw [step_of_nextInstr hrun ⟨op, hf, hd⟩]; exact exec_answers i s
      | rejected e => exact ⟨_, step_of_unknown hrun hf hd⟩
  | waitingForKey x => exact ⟨_, step_waiting hrun⟩
  | halted r => exact ⟨_, step_halted hrun⟩

theorem applyEvent_answers (e : Event) (s : State) : ∃ t, applyEvent e s = .next t := by
  cases e with
  | step => exact step_answers s
  | tick | refreshKeys | ackRender | loadImage => exact ⟨_, rfl⟩

theorem runEvents_cons {e : Event} {es : List Event} {s t : State} (h : applyEvent e s = .next t) :
    runEvents (e :: es) s = runEvents es t := by
  rw [runEvents, h]

theorem runEvents_answers (es : List Event) (s : State) : ∃ t, runEvents es s = .next t := by
  induction es generalizing s with
  | nil => exact ⟨s, rfl⟩
  | cons e es ih =>
    obtain ⟨t, ht⟩ := applyEvent_answers e s
    rw [runEvents_cons ht]
    exact ih t

/-- Settles O14: instructions, steps and schedules in turn. -/
theorem everythingAnswersANextState : Obligations.EverythingAnswersANextState :=
  ⟨exec_answers, step_answers, runEvents_answers⟩

/-! ### A halt (R263) -/

/-- `t` is `s` but for what ticks, key refreshes and render acknowledgements change: the timers, the two key snapshots and
the render notification. -/
def SameButTimersAndHost (s t : State) : Prop :=
  t = { s with dt := t.dt, st := t.st, keys := t.keys, prevKeys := t.prevKeys, renderPending := t.renderPending }

theorem SameButTimersAndHost.refl (s : State) : SameButTimersAndHost s s := rfl

/-- No event but a load takes a halted engine any further than the timers and the host do. -/
theorem applyEvent_halted {s t u : State} {r : HaltReason} {e : Event} (hrun : s.run = .halted r)
    (hload : ∀ b, e ≠ .loadImage b) (hst : SameButTimersAndHost s t) (h : applyEvent e t = .next u) :
    SameButTimersAndHost s u := by
  cases e with
  | step =>
    have hhalt : t.run = .halted r := (congrArg State.run hst).trans hrun
    cases (step_halted hhalt).symm.trans h
    exact hst
  | tick | refreshKeys | ackRender => cases h; rw [hst]; rfl
  | loadImage b => exact absurd rfl (hload b)

/-- Settles O12: the events of a schedule without a load keep the halted state, and a load that is accepted runs. -/
theorem haltLastsUntilAProgramLoad : Obligations.HaltLastsUntilAProgramLoad := by
  intro s r hrun
  refine ⟨step_halted hrun, fun es hloads => ?_, fun b t => loadImage_run⟩
  obtain ⟨t, ht⟩ := runEvents_answers es s
  exact ⟨t, ht, runEvents_keeps (P := SameButTimersAndHost s)
    (fun e he _ _ => applyEvent_halted hrun fun b hb => hloads b (hb ▸ he)) (.refl s) ht⟩

/-! ### PC after an instruction (R90) -/

theorem alive_raiseHalt {s : State} {r : HaltReason} : ¬ (raiseHalt r s).alive := fun h => h r rfl

theorem exec_pc_of_genericAdvance {i : Instr} {s t : State} (hi : genericAdvance i = true) (h : exec i s = .next t)
    (halive : t.alive) : t.pc = s.pc + 2 := by
  cases i with
  | drw x y n =>
    cases hp : physRange s.cfg s.iReg.toNat n.toNat with
    | none => cases (execDrw_halt hp).symm.trans h; exact absurd halive alive_raiseHalt
    | some ps => cases (execDrw_ok hp).symm.trans h; rfl
  | ldBVx x =>
    cases hp : physRange s.cfg s.iReg.toNat 3 with
    | none => cases (execLdBVx_halt hp).symm.trans h; exact absurd halive alive_raiseHalt
    | some ps => cases (execLdBVx_ok hp).symm.trans h; rw [writeCells_eq]; rfl
  | ldMemVx x =>
    cases hp : physRange s.cfg s.iReg.toNat (x.toNat + 1) with
    | none => cases (execLdMemVx_halt hp).symm.trans h; exact absurd halive alive_raiseHalt
    | some ps => cases (execLdMemVx_ok hp).symm.trans h; rw [incrementI_eq, writeCells_eq]; rfl
  | ldVxMem x =>
    cases hp : physRange s.cfg s.iReg.toNat (x.toNat + 1) with
    | none => cases (execLdVxMem_halt hp).symm.trans h; exact absurd halive alive_raiseHalt
    | some ps => cases (execLdVxMem_ok hp).symm.trans h; rw [incrementI_eq, writeRegsFrom_eq]; rfl
  | addIVx x => cases h; by_cases hq : s.cfg.addISetsVf = true <;> simp [hq]
  | ret | jp | call | jpV0 | seImm | sneImm | seReg | sneReg | skp | sknp => cases hi
  | _ => cases h; rfl

theorem skipIf_pc_cases (s : State) (cond : Bool) :
    (skipIf s cond).pc = s.pc + 4 ∨ (skipIf s cond).pc = s.pc + 2 := by
  cases cond
  · exact .inr rfl
  · exact .inl rfl

theorem exec_pc_of_isSkip {i : Instr} {s t : State} (hi : isSkip i = true) (h : exec i s = .next t) :
    t.pc = s.pc + 4 ∨ t.pc = s.pc + 2 := by
  cases i with
  | seImm | sneImm | seReg | sneReg | skp | sknp => cases h; exact skipIf_pc_cases s _
  | _ => cases hi

/-- A return that does not halt takes PC from the top of the stack (R110). -/
theorem execRet_stack {s t : State} (h : execRet s = .next t) (halive : t.alive) : s.stack = t.stack ++ [t.pc] := by
  rcases List.eq_nil_or_concat s.stack with hs | ⟨ws, w, hs⟩
  · cases (execRet_empty hs).symm.trans h
    exact absurd halive alive_raiseHalt
  · rw [List.concat_eq_append] at hs
    cases (execRet_ok hs).symm.trans h
    exact hs

/-- A call that does not halt is at its address (R112). -/
theorem execCall_pc {nnn : BitVec 12} {s t : State} (h : execCall nnn s = .next t) (halive : t.alive) :
    t.pc = zext16 nnn := by
  by_cases hl : s.stack.length < 16
  · cases (execCall_ok hl nnn).symm.trans h; rfl
  · cases (execCall_full hl nnn).symm.trans h; exact absurd halive alive_raiseHalt

theorem toNat_zext16 (nnn : BitVec 12) : (zext16 nnn).toNat = nnn.toNat := by
  have := nnn.isLt
  rw [zext16, BitVec.toNat_setWidth]
  omega

/-- The target of an offset jump does not wrap: the sum of 12 bits and 8 bits is below 65536 (R117). -/
theorem toNat_offsetTarget (s : State) (nnn : BitVec 12) :
    (offsetTarget s nnn).toNat = nnn.toNat + (jumpOffset s nnn).toNat := by
  have := nnn.isLt
  have := (jumpOffset s nnn).isLt
  rw [offsetTarget, wrap16, BitVec.toNat_ofNat]
  omega

/-- Settles O25, class by class. -/
theorem pcAdvanceByClass : Obligations.PcAdvanceByClass := by
  intro i s t h halive
  refine ⟨fun hi => exec_pc_of_genericAdvance hi h halive, fun hi => exec_pc_of_isSkip hi h, ?_, ?_, ?_⟩
  · rintro rfl
    exact execRet_stack h halive
  · rintro nnn (rfl | rfl)
    · cases h
      exact toNat_zext16 nnn
    · rw [execCall_pc h halive, toNat_zext16]
  · rintro nnn rfl
    cases h
    exact toNat_offsetTarget s nnn

end Sys2Proof.Machine
end

section
/-! PROOFS. The written forms of words, and the registers that they name without reading (R93, R94). -/

namespace Sys2Proof.Machine

/-- An instruction's word is written as the instruction, an unknown word as itself. -/
theorem asmWord_of_instr {c : Config} {op : Word} {i : Instr} (h : decode c op = .instr i) :
    asmWord c op = asmLine i := by
  rw [asmWord, h]

theorem asmWord_of_rejected {c : Config} {op : Word} {e : DecodeError} (h : decode c op = .rejected e) :
    asmWord c op = ⟨"DW", [.word op]⟩ := by
  rw [asmWord, h]

/-- Words that are written alike are both instructions, and then the encoding of the same one, or both unknown. -/
theorem asmWord_inj {c : Config} {op op' : Word} (h : asmWord c op = asmWord c op') : op = op' := by
  cases hd : decode c op with
  | instr i =>
    rw [asmWord_of_instr hd] at h
    cases hd' : decode c op' with
    | instr j =>
      rw [asmWord_of_instr hd'] at h
      cases asmLine_inj h
      obtain ⟨hop, -⟩ := decodedWordIsItsEncoding c op i hd
      obtain ⟨hop', -⟩ := decodedWordIsItsEncoding c op' i hd'
      exact hop.symm.trans hop'
    | rejected e' => exact absurd (h.trans (asmWord_of_rejected hd')) (asmLine_ne_dw i op')
  | rejected e =>
    rw [asmWord_of_rejected hd] at h
    cases hd' : decode c op' with
    | instr j => exact absurd (h.trans (asmWord_of_instr hd')).symm (asmLine_ne_dw j op)
    | rejected e' => simpa [asmWord_of_rejected hd'] using h

/-- Settles O59: an instruction's word decodes to it, and no two words are written alike. -/
theorem writtenFormsNameOneWord : Obligations.WrittenFormsNameOneWord :=
  fun _ => ⟨fun _ hwf => asmWord_of_instr (decode_encode hwf), fun _ _ => asmWord_inj⟩

/-! ### Registers named and read -/

theorem shiftSource_of_not_usesVy {s : State} (h : s.cfg.shiftUsesVy = false) (x y : RegIx) :
    shiftSource s x y = readV s x := by simp [shiftSource, h]

theorem shiftSource_of_usesVy {s : State} (h : s.cfg.shiftUsesVy = true) (x y : RegIx) :
    shiftSource s x y = readV s y := by simp [shiftSource, h]

/-- With `SHIFT_USES_VY` what VX holds is no source of the shift of another register. -/
theorem shiftSource_writeV {s : State} (h : s.cfg.shiftUsesVy = true) {x y : RegIx} (hne : x ≠ y) (b : Byte) :
    shiftSource (writeV s x b) x y = shiftSource s x y := by
  rw [shiftSource_of_usesVy (by simpa using h), shiftSource_of_usesVy h, readV_writeV_ne s b hne.symm]

theorem writeV_writeV (s : State) (x : RegIx) (b b' : Byte) : writeV (writeV s x b) x b' = writeV s x b' := by
  simp [writeV]

/-- The old value of the destination is overwritten. -/
theorem writeResultAndFlag_writeV (s : State) (x : RegIx) (b b' f : Byte) :
    writeResultAndFlag (writeV s x b) x b' f = writeResultAndFlag s x b' f := by
  rw [writeResultAndFlag, writeV_writeV, writeResultAndFlag]

theorem execShr_congr {s : State} {x y y' : RegIx} (h : shiftSource s x y = shiftSource s x y') :
    execShr x y s = execShr x y' s := by rw [execShr, h, execShr]

theorem execShl_congr {s : State} {x y y' : RegIx} (h : shiftSource s x y = shiftSource s x y') :
    execShl x y s = execShl x y' s := by rw [execShl, h, execShl]

theorem execShr_writeV {s : State} (h : s.cfg.shiftUsesVy = true) {x y : RegIx} (hne : x ≠ y) (b : Byte) :
    execShr x y (writeV s x b) = execShr x y s := by
  rw [execShr, shiftSource_writeV h hne, writeResultAndFlag_writeV, execShr]

theorem execShl_writeV {s : State} (h : s.cfg.shiftUsesVy = true) {x y : RegIx} (hne : x ≠ y) (b : Byte) :
    execShl x y (writeV s x b) = execShl x y s := by
  rw [execShl, shiftSource_writeV h hne, writeResultAndFlag_writeV, execShl]

/-- The register that an offset jump adds: V0, or V[nnn[11:8]] with `JUMP_OFFSET_USES_VX` (R117). -/
theorem jumpOffset_eq (s : State) (nnn : BitVec 12) :
    jumpOffset s nnn = readV s (if s.cfg.jumpOffsetUsesVx then BitVec.ofNat 4 (nnn.toNat / 256) else 0) := by
  have hfield : nnn.extractLsb' 8 4 = BitVec.ofNat 4 (nnn.toNat / 256) := by
    apply BitVec.eq_of_toNat_eq
    simp [Nat.shiftRight_eq_div_pow]
  rw [jumpOffset, hfield]
  split <;> rfl

/-- Settles O60: the shifts by their source, the offset jump by the register it adds. -/
theorem namedRegistersReadUnderTheQuirks : Obligations.NamedRegistersReadUnderTheQuirks := by
  refine ⟨fun x y y' s hq => ?_, fun x y b s hq hne => ⟨execShr_writeV hq hne b, execShl_writeV hq hne b⟩,
    fun nnn r b s hr => ⟨_, _, rfl, rfl, ?_⟩⟩
  · have hsource : shiftSource s x y = shiftSource s x y' := by
      rw [shiftSource_of_not_usesVy hq, shiftSource_of_not_usesVy hq]
    exact ⟨execShr_congr hsource, execShl_congr hsource⟩
  · have hoffset : jumpOffset (writeV s r b) nnn = jumpOffset s nnn := by
      rw [jumpOffset_eq, jumpOffset_eq, writeV_cfg, readV_writeV_ne s b (Ne.symm hr)]
    rw [writePC_pc, writePC_pc, offsetTarget, hoffset, offsetTarget]

end Sys2Proof.Machine
end

section
/-! PROOFS. Control transfer (40_control_flow.md): return and call by the top and the depth of the stack (R110, R112), jumps
by their target (R111, R117), the register skips by their condition (R113 to R116). -/

namespace Sys2Proof.Machine

/-! ### Return and call -/

/-- Settles O26: on a stack with a top and on an empty one. -/
theorem returnPopsTheStack : Obligations.ReturnPopsTheStack :=
  fun _ => ⟨fun _ _ hs => execRet_ok hs, fun hs => ⟨_, execRet_empty hs, rfl⟩⟩

/-- Settles O28: below 16 entries the push is accepted, at 16 it is refused. -/
theorem callPushesTheReturnAddress : Obligations.CallPushesTheReturnAddress := by
  refine fun nnn s => ⟨fun hroom => ⟨_, execCall_ok hroom nnn, rfl, toNat_zext16 nnn, rfl⟩, fun hfull => ?_⟩
  have hnoroom : ¬ s.stack.length < 16 := by omega
  exact ⟨_, execCall_full hnoroom nnn, rfl⟩

/-- Settles O29: the top that the return pops is the address that the call pushed. -/
theorem callThenReturn : Obligations.CallThenReturn :=
  fun nnn _ hroom => ⟨_, execCall_ok hroom nnn, execRet_ok rfl⟩

/-! ### Jumps -/

/-- A fetch fails exactly when the two bytes at PC are not in range (R53, R80). -/
theorem fetch_error_iff {s : State} :
    fetch s = .error .addressOutOfRange ↔ ¬ fitsMemory s.cfg s.pc.toNat 2 := by
  refine ⟨fun hf hfits => ?_, fetch_of_not_fits⟩
  cases (fetch_of_fits hfits).symm.trans hf

/-- Of the 12-bit addresses only 0xFFF has its second byte outside memory, and only Fatal mode minds (R52, R53). -/
theorem not_fitsMemory_two_iff {c : Config} {nnn : BitVec 12} :
    ¬ fitsMemory c nnn.toNat 2 ↔ c.addrMode = .fatal ∧ nnn = 0xFFF := by
  have hlast : nnn = 0xFFF ↔ nnn.toNat = 4095 := BitVec.toNat_inj.symm
  have hlt := nnn.isLt
  rw [hlast]
  cases hm : c.addrMode with
  | wrap => simp [fitsMemory, hm]
  | fatal => simp [fitsMemory, hm]; omega

/-- Settles O27: the fetch at the target is out of range at the last address only. -/
theorem jumpSetsPc : Obligations.JumpSetsPc := by
  refine fun nnn s => ⟨_, rfl, toNat_zext16 nnn, rfl, ?_⟩
  rw [fetch_error_iff, writePC_cfg, writePC_pc, toNat_zext16, not_fitsMemory_two_iff]

/-- Settles O31: the register that each value of the quirk names is added to the target without wrapping. -/
theorem offsetJumpTarget : Obligations.OffsetJumpTarget := by
  refine fun nnn s => ⟨_, rfl, rfl, fun hq => ?_, fun hq => ?_⟩
  · rw [writePC_pc, toNat_offsetTarget, jumpOffset_eq, if_neg (by simp [hq])]
  · rw [writePC_pc, toNat_offsetTarget, jumpOffset_eq, if_pos hq]

/-! ### Skips -/

/-- A skip on a condition changes PC only (R90, R118). -/
theorem skipIf_decide (s : State) (p : Prop) [Decidable p] :
    skipIf s (decide p) = { s with pc := if p then s.pc + 4 else s.pc + 2 } := by
  by_cases hp : p <;> simp [skipIf, writePC, hp]

/-- A skip on the opposite condition has the two advances the other way round. -/
theorem skipIf_decide_not (s : State) (p : Prop) [Decidable p] :
    skipIf s (decide ¬p) = { s with pc := if p then s.pc + 2 else s.pc + 4 } := by
  rw [skipIf_decide, ite_not]

/-- Settles O30: 3XNN and 5XY0 skip on equality, 4XNN and 9XY0 on its opposite. -/
theorem registerSkips : Obligations.RegisterSkips :=
  fun _ _ _ s => ⟨congrArg _ (skipIf_decide s _), congrArg _ (skipIf_decide_not s _),
    congrArg _ (skipIf_decide s _), congrArg _ (skipIf_decide_not s _)⟩

end Sys2Proof.Machine
end

section
/-! PROOFS. Register arithmetic and logic (41_alu.md): each meaning is one register write, or one register write and the
flag, of a value in the byte operators (R142 to R153). -/

namespace Sys2Proof.Machine

/-! ### Writes without a flag -/

theorem exec_addImm (x : RegIx) (nn : Byte) (s : State) : exec (.addImm x nn) s = writeResult s x (readV s x + nn) :=
  congrArg (writeResult s x) (wrappedSum_eq_add (readV s x) nn)

/-- Settles O32: 6XNN and 7XNN are a register write each. -/
theorem immediateForms : Obligations.ImmediateForms := by
  refine fun x nn s => ⟨writeResult_writes s x nn, ?_⟩
  rw [exec_addImm]
  exact writeResult_writes s x _

/-- Settles O33: each of the four is a register write of the value named. -/
theorem copyAndLogicForms : Obligations.CopyAndLogicForms := fun x _ s =>
  ⟨writeResult_writes s x _, writeResult_writes s x _, writeResult_writes s x _, writeResult_writes s x _⟩

/-- Settles O37: a register write in the state whose draw is used up. -/
theorem randomByteIsMasked : Obligations.RandomByteIsMasked := fun x nn s =>
  writeResult_writes (draw8 s).2 x ((draw8 s).1 &&& nn)

/-! ### Writes with a flag -/

/-- The flag of a decided condition. -/
theorem flagByte_decide (p : Prop) [Decidable p] : flagByte (decide p) = if p then 1 else 0 := by
  rw [flagByte_eq]
  simp only [decide_eq_true_eq]

theorem carryFlag_eq (a b : Byte) : carryFlag a b = if 255 < a.toNat + b.toNat then 1 else 0 := flagByte_decide _

theorem noBorrowFlag_eq (a b : Byte) : noBorrowFlag a b = if b.toNat ≤ a.toNat then 1 else 0 := flagByte_decide _

theorem exec_addReg (x y : RegIx) (s : State) : exec (.addReg x y) s = writeResultAndFlag s x (readV s x + readV s y)
    (if 255 < (readV s x).toNat + (readV s y).toNat then 1 else 0) := by
  rw [← wrappedSum_eq_add, ← carryFlag_eq]
  rfl

theorem exec_sub (x y : RegIx) (s : State) : exec (.sub x y) s = writeResultAndFlag s x (readV s x - readV s y)
    (if (readV s y).toNat ≤ (readV s x).toNat then 1 else 0) := by
  rw [← wrappedDiff_eq_sub, ← noBorrowFlag_eq]
  rfl

theorem exec_subn (x y : RegIx) (s : State) : exec (.subn x y) s = writeResultAndFlag s x (readV s y - readV s x)
    (if (readV s x).toNat ≤ (readV s y).toNat then 1 else 0) := by
  rw [← wrappedDiff_eq_sub, ← noBorrowFlag_eq]
  rfl

theorem exec_shr (x y : RegIx) (s : State) : exec (.shr x y) s =
    writeResultAndFlag s x (shiftSource s x y >>> 1) (shiftSource s x y &&& 1) := by
  rw [← halved_eq_shift, ← shiftedOutRight_eq_and]
  rfl

theorem exec_shl (x y : RegIx) (s : State) : exec (.shl x y) s =
    writeResultAndFlag s x (shiftSource s x y <<< 1) (shiftSource s x y >>> 7) := by
  rw [← doubled_eq_shift, ← shiftedOutLeft_eq_shift]
  rfl

/-- Settles O34: the wrapped sum is the sum of bytes, and the flag is that of the exact sum. -/
theorem addRegistersSumAndCarry : Obligations.AddRegistersSumAndCarry := by
  intro x y s
  rw [exec_addReg]
  exact writeResultAndFlag_writes s x _ _

/-- Settles O35: the wrapped difference is the difference of bytes, each way round. -/
theorem subtractRegistersDifferenceAndBorrow : Obligations.SubtractRegistersDifferenceAndBorrow := by
  intro x y s
  rw [exec_sub, exec_subn]
  exact ⟨writeResultAndFlag_writes s x _ _, writeResultAndFlag_writes s x _ _⟩

/-- Settles O36: the value shifted is the model's shift source, under either value of the quirk. -/
theorem shiftsAndTheBitShiftedOut : Obligations.ShiftsAndTheBitShiftedOut := by
  intro x y s v hv
  obtain rfl : v = shiftSource s x y := hv
  rw [exec_shr, exec_shl]
  exact ⟨writeResultAndFlag_writes s x _ _, writeResultAndFlag_writes s x _ _⟩

end Sys2Proof.Machine
end

section
/-! PROOFS. The address register and memory (42_index_memory.md): what I is set to (R181 to R183), the bytes that a store
leaves (R184, R185), and the registers that a load fills (R186). -/

namespace Sys2Proof.Machine

/-! ### The address register -/

/-- The low nibble of a byte as a number (R183, R230). -/
theorem toNat_lowNibble (v : Byte) : (lowNibble v).toNat = v.toNat % 16 := BitVec.toNat_setWidth 4 v

theorem toNat_digitAddress (c : Config) (v : Byte) :
    (digitAddress c v).toNat = (c.fontBase + 5 * (v.toNat % 16)) % 65536 := by
  rw [digitAddress, BitVec.toNat_ofNat, toNat_lowNibble]

/-- Settles O38: both write I and nothing else before the advance. -/
theorem setIndexRegister : Obligations.SetIndexRegister := fun nnn x s =>
  ⟨⟨_, rfl, toNat_zext16 nnn, rfl⟩, ⟨_, rfl, toNat_digitAddress s.cfg (readV s x), rfl⟩⟩

theorem indexOverflowFlag_eq (sum : Nat) : indexOverflowFlag sum = if 0x0FFF < sum then 1 else 0 := flagByte_decide _

/-- FX1E without `ADD_I_SETS_VF` (R182). -/
theorem exec_addIVx_of_no_flag {s : State} (hq : s.cfg.addISetsVf = false) (x : RegIx) :
    exec (.addIVx x) s = .next (advance (writeI s (wrap16 (indexSum s x)))) := by
  simp [exec, execAddIVx, hq]

/-- FX1E with `ADD_I_SETS_VF` (R182). -/
theorem exec_addIVx_of_flag {s : State} (hq : s.cfg.addISetsVf = true) (x : RegIx) :
    exec (.addIVx x) s =
      .next (advance (writeVF (writeI s (wrap16 (indexSum s x))) (indexOverflowFlag (indexSum s x)))) := by
  simp [exec, execAddIVx, hq]

/-- Settles O39: under each value of the quirk. -/
theorem addToIndexRegister : Obligations.AddToIndexRegister := by
  intro x s
  have hsum : (wrap16 (indexSum s x)).toNat = (s.iReg.toNat + (readV s x).toNat) % 65536 := BitVec.toNat_ofNat _ _
  cases hq : s.cfg.addISetsVf with
  | false => exact ⟨_, exec_addIVx_of_no_flag hq x, hsum, fun _ => rfl, nofun, rfl⟩
  | true =>
    exact ⟨_, exec_addIVx_of_flag hq x, hsum, nofun,
      fun _ => ⟨fun _ hr => readV_writeVF_ne _ _ hr, (readV_writeVF_vf _ _).trans (indexOverflowFlag_eq _)⟩, rfl⟩

/-- I after the quirk of a dump or a load: advanced by x + 1, or kept (R185, R186). -/
theorem incrementI_iReg (s : State) (x : RegIx) : (incrementI s s.iReg x).iReg =
    if s.cfg.loadStoreIncrementsI then s.iReg + BitVec.ofNat 16 (x.toNat + 1) else s.iReg := by
  rw [incrementI]
  split
  case isTrue => exact BitVec.eq_of_toNat_eq (by simp [Nat.add_assoc])
  case isFalse => rfl

/-! ### Stores (R184, R185) -/

/-- After a store of at most 4096 bytes its cells hold the bytes, in order. -/
theorem map_readCell_writeCells {s : State} {a : Nat} {bs : List Byte} {ps : List Nat} (hmem : Memory.wf s.cfg s.mem)
    (hl : bs.length ≤ memSize) (hps : physRange s.cfg a bs.length = some ps) :
    ps.map (readCell (writeCells s (ps.zip bs))) = bs := by
  have hlen := physRange_length hps
  refine List.ext_getElem (by simpa using hlen) fun k _ hk => ?_
  rw [List.getElem_map, ← storeBytes_bytes hmem hl (storeBytes_ok hps) k hk]
  simp [physRange_eq hps]

/-- A store leaves every cell but its own. -/
theorem readCell_writeCells_zip_ne (s : State) {ps : List Nat} (bs : List Byte) {p : Nat} (hp : p ∉ ps) :
    readCell (writeCells s (ps.zip bs)) p = readCell s p :=
  readCell_writeCells_ne _ _ _ fun _ hpb e => hp (e ▸ (List.of_mem_zip hpb).1)

/-- The digits are below 256, so narrowing them to bytes loses nothing. -/
theorem map_toNat_bcdDigits (v : Byte) :
    (bcdDigits v).map BitVec.toNat = [v.toNat / 100, v.toNat / 10 % 10, v.toNat % 10] := by
  have hv := v.isLt
  simp (disch := omega) only [bcdDigits, List.map_cons, List.map_nil, BitVec.toNat_ofNat, Nat.mod_eq_of_lt]

/-- Settles O40: the three digits are stored at I, in range; else the instruction halts. -/
theorem bcdDigitsAreStored : Obligations.BcdDigitsAreStored := by
  refine fun x s hmem => ⟨fun hfits => ?_, fun hout => ⟨_, execLdBVx_halt (physRange_none_of_not_fits hout), rfl⟩⟩
  obtain ⟨ps, hps⟩ := physRange_of_fits hfits
  have hbytes := map_readCell_writeCells (bs := bcdDigits (readV s x)) hmem (by simp) hps
  have hdigits := congrArg (List.map BitVec.toNat) hbytes
  rw [List.map_map, map_toNat_bcdDigits] at hdigits
  refine ⟨ps, _, hps, execLdBVx_ok hps, hdigits, fun p hp => readCell_writeCells_zip_ne s _ hp, ?_⟩
  rw [writeCells_eq]
  rfl

/-- Settles O41: V0 to VX are stored at I, in range, and I is what the quirk makes it; else the instruction halts. -/
theorem registerDumpStoresV0ToVx : Obligations.RegisterDumpStoresV0ToVx := by
  refine fun x s hmem => ⟨fun hfits => ?_, fun hout => ⟨_, execLdMemVx_halt (physRange_none_of_not_fits hout), rfl⟩⟩
  obtain ⟨ps, hps⟩ := physRange_of_fits hfits
  have hexec := execLdMemVx_ok hps
  obtain ⟨-, hcell⟩ := execLdMemVx_stores hmem hfits hexec
  refine ⟨ps, _, hps, hexec, fun k hk => ⟨_, physRange_getElem? hps (by omega), hcell k hk⟩, fun p hp => ?_, ?_, ?_⟩
  · rw [← readCell_writeCells_zip_ne s (regsUpTo s x) hp, incrementI_eq]
    rfl
  · rw [writeCells_eq]
    exact incrementI_iReg _ x
  · rw [incrementI_eq, writeCells_eq]
    rfl

/-! ### Loads (R186) -/

@[simp] theorem readV_incrementI (s : State) (i0 : Word) (x r : RegIx) : readV (incrementI s i0 x) r = readV s r := by
  rw [incrementI_eq]
  rfl

/-- A register load in range: V0 to VX hold the bytes of the cells from I on, the other registers keep theirs (R186). -/
theorem readV_registerLoad {s : State} {x : RegIx} {ps : List Nat}
    (hps : physRange s.cfg s.iReg.toNat (x.toNat + 1) = some ps) (r : RegIx) :
    readV (writeRegsFrom s 0 (ps.map (readCell s))) r =
      if r.toNat ≤ x.toNat then readCell s ((s.iReg.toNat + r.toNat) % memSize) else readV s r := by
  have hlen := physRange_length hps
  have hread := readV_writeRegsFrom (ps.map (readCell s)) s 0 r.toNat (by simp; omega) r.isLt
  rw [BitVec.ofNat_toNat, BitVec.setWidth_eq] at hread
  rw [hread]
  by_cases hr : r.toNat ≤ x.toNat
  · rw [dif_pos (by simp; omega), if_pos hr]
    simp [physRange_eq hps]
  · rw [dif_neg (by simp; omega), if_neg hr]

/-- Settles O42: V0 to VX are loaded from I on, in range, and I is what the quirk makes it; else the instruction halts. -/
theorem registerLoadReadsV0ToVx : Obligations.RegisterLoadReadsV0ToVx := by
  refine fun x s => ⟨fun hfits => ?_, fun hout => ⟨_, execLdVxMem_halt (physRange_none_of_not_fits hout), rfl⟩⟩
  obtain ⟨ps, hps⟩ := physRange_of_fits hfits
  refine ⟨_, execLdVxMem_ok hps, fun r => ?_, ?_, ?_⟩
  · rw [readV_advance, readV_incrementI]
    exact readV_registerLoad hps r
  · rw [writeRegsFrom_eq]
    exact incrementI_iReg _ x
  · rw [incrementI_eq, writeRegsFrom_eq]
    rfl

/-- Settles O43: the load reads the cells that the dump wrote, which setting registers and I leaves alone. -/
theorem dumpThenLoadRestoresRegisters : Obligations.DumpThenLoadRestoresRegisters := by
  intro x s t w hmem hfits hdump
  obtain ⟨-, hcell⟩ := execLdMemVx_stores hmem hfits hdump
  have hfits' : fitsMemory t.cfg s.iReg.toNat (x.toNat + 1) := (exec_cfg hdump).symm ▸ hfits
  obtain ⟨u, hload, hregs, -⟩ := (registerLoadReadsV0ToVx x { t with v := w, iReg := s.iReg }).1 hfits'
  refine ⟨u, hload, fun r hr => ?_⟩
  calc readV u r = readCell t ((s.iReg.toNat + r.toNat) % memSize) := (hregs r).trans (if_pos hr)
    _ = readV s (BitVec.ofNat 4 r.toNat) := hcell r.toNat hr
    _ = readV s r := by rw [BitVec.ofNat_toNat, BitVec.setWidth_eq]

end Sys2Proof.Machine
end

section
/-! PROOFS. The framebuffer instructions (43_display.md): clear (R211), and draw (R212) as a toggle of distinct pixels, from
which the three facts of R213 follow. -/

namespace Sys2Proof.Machine

/-! ### The pixels of a sprite -/

/-- One sprite row lands on distinct pixels: its 8 columns do not meet in the 64 of the grid. -/
theorem rowPixels_nodup (x0 y : Nat) (row : Byte) : (rowPixels x0 y row).Nodup := by
  refine List.Nodup.map_on (fun c hc d hd heq => ?_) (List.nodup_range.filter _)
  have hc8 := List.mem_range.mp (List.mem_filter.mp hc).1
  have hd8 := List.mem_range.mp (List.mem_filter.mp hd).1
  have hcol : (x0 + c) % 64 = (x0 + d) % 64 := congrArg Prod.fst heq
  omega

/-- A sprite that is not higher than the grid lands on distinct pixels: its rows do not meet either (R213 (a)). -/
theorem spritePixels_nodup (x0 : Nat) {y0 : Nat} {rows : List Byte} (hrows : rows.length ≤ fbHeight) :
    (spritePixels x0 y0 rows).Nodup := by
  induction rows generalizing y0 with
  | nil => exact List.nodup_nil
  | cons row rows ih =>
    have hlen : rows.length + 1 ≤ 32 := hrows
    refine (rowPixels_nodup x0 y0 row).append (ih (Nat.le_of_succ_le hlen)) fun p hp hq => ?_
    obtain ⟨c, -, -, rfl⟩ := mem_rowPixels.mp hp
    obtain ⟨r, d, hr, -, -, heq⟩ := mem_spritePixels.mp hq
    have hrow : y0 % 32 = (y0 + 1 + r) % 32 := congrArg Prod.snd heq
    omega

/-- Distinct pixels of the grid can be toggled in any order (R213 (a)). -/
theorem foldl_drawPixel_perm {ps qs : List (Nat × Nat)} (hperm : ps.Perm qs) (hd : qs.Nodup)
    (hgrid : ∀ p ∈ qs, p.1 < fbWidth ∧ p.2 < fbHeight) (acc : Framebuffer × Bool) :
    ps.foldl drawPixel acc = qs.foldl drawPixel acc := by
  obtain ⟨hpix, hcol⟩ := foldl_drawPixel ps acc (hperm.nodup_iff.mpr hd) fun p hp => hgrid p (hperm.mem_iff.mp hp)
  obtain ⟨hpix', hcol'⟩ := foldl_drawPixel qs acc hd hgrid
  refine Prod.ext (fb_ext fun x hx y hy => ?_) (Bool.eq_iff_iff.mpr ?_)
  · simp only [hpix x y hx hy, hpix' x y hx hy, hperm.mem_iff]
  · simp only [hcol, hcol', hperm.mem_iff]

/-- Settles O49: the pixels are distinct, so any order will do. -/
theorem drawOrderDoesNotMatter : Obligations.DrawOrderDoesNotMatter := by
  intro x0 y0 rows hrows
  have hd : (spritePixels x0 y0 rows).Nodup := spritePixels_nodup x0 (hrows.trans (by decide))
  exact ⟨hd, fun f ps hperm => foldl_drawPixel_perm hperm hd (fun _ => spritePixels_lt) (f, false)⟩

/-! ### Drawing a sprite -/

section
variable {rows : List Byte} (hrows : rows.length ≤ fbHeight) (f : Framebuffer) (x0 y0 : Nat)
include hrows

/-- Drawing flips the pixels that the sprite lands on and no other (R212, R213 (c)). -/
theorem pixel_drawSprite {px py : Nat} (hx : px < fbWidth) (hy : py < fbHeight) :
    pixel (drawSprite f x0 y0 rows).1 px py = (pixel f px py ^^ decide ((px, py) ∈ spritePixels x0 y0 rows)) :=
  (foldl_drawPixel _ _ (spritePixels_nodup x0 hrows) fun _ => spritePixels_lt).1 px py hx hy

/-- Drawing reports a collision exactly when the sprite lands on a pixel that was on (R212). -/
theorem drawSprite_collides_iff :
    (drawSprite f x0 y0 rows).2 = true ↔ ∃ p ∈ spritePixels x0 y0 rows, pixel f p.1 p.2 = true :=
  (foldl_drawPixel _ _ (spritePixels_nodup x0 hrows) fun _ => spritePixels_lt).2.trans (by simp)

/-- Flipping the same pixels twice flips none (R213 (b)). -/
theorem drawSprite_drawSprite : (drawSprite (drawSprite f x0 y0 rows).1 x0 y0 rows).1 = f :=
  fb_ext fun px hx py hy => by
    rw [pixel_drawSprite hrows _ x0 y0 hx hy, pixel_drawSprite hrows f x0 y0 hx hy, Bool.xor_assoc, Bool.xor_self,
      Bool.xor_false]

/-- A pixel that the sprite lands on and that is on after the draw is one that the draw turned on. -/
theorem covered_and_on_iff_turned_on {px py : Nat} (hx : px < fbWidth) (hy : py < fbHeight) :
    (px, py) ∈ spritePixels x0 y0 rows ∧ pixel (drawSprite f x0 y0 rows).1 px py = true ↔
      pixel f px py = false ∧ pixel (drawSprite f x0 y0 rows).1 px py = true := by
  rw [pixel_drawSprite hrows f x0 y0 hx hy]
  by_cases hcov : (px, py) ∈ spritePixels x0 y0 rows
  · simp [hcov]
  · simp [hcov]

/-- A second draw collides exactly when the first turned some pixel on (R213 (b)). -/
theorem drawSprite_second_collides_iff :
    (drawSprite (drawSprite f x0 y0 rows).1 x0 y0 rows).2 = true ↔
      ∃ px py, px < fbWidth ∧ py < fbHeight ∧ pixel f px py = false ∧
        pixel (drawSprite f x0 y0 rows).1 px py = true := by
  rw [drawSprite_collides_iff hrows]
  constructor
  · rintro ⟨⟨px, py⟩, hcov, hon⟩
    obtain ⟨hx, hy⟩ := spritePixels_lt hcov
    exact ⟨px, py, hx, hy, (covered_and_on_iff_turned_on hrows f x0 y0 hx hy).mp ⟨hcov, hon⟩⟩
  · rintro ⟨px, py, hx, hy, hturned⟩
    exact ⟨(px, py), (covered_and_on_iff_turned_on hrows f x0 y0 hx hy).mpr hturned⟩

end

/-! ### DXYN -/

/-- The rows of the sprite that DXYN draws: the `n` bytes from I on (R210). -/
def spriteRows (s : State) (n : BitVec 4) : List Byte :=
  (List.range n.toNat).map fun r => readCell s ((s.iReg.toNat + r) % memSize)

@[simp] theorem spriteRows_length (s : State) (n : BitVec 4) : (spriteRows s n).length = n.toNat := by simp [spriteRows]

/-- A sprite has at most 15 rows. -/
theorem spriteRows_length_le (s : State) (n : BitVec 4) : (spriteRows s n).length ≤ fbHeight := by
  have := n.isLt
  rw [spriteRows_length, fbHeight]
  omega

/-- DXYN in range draws its rows (R212). -/
theorem exec_drw_of_fits {s : State} {n : BitVec 4} (hfits : fitsMemory s.cfg s.iReg.toNat n.toNat) (x y : RegIx) :
    exec (.drw x y n) s = .next (advance (drawRows s x y (spriteRows s n))) := by
  obtain ⟨ps, hps⟩ := physRange_of_fits hfits
  have hrows : ps.map (readCell s) = spriteRows s n := by rw [physRange_eq hps, List.map_map]; rfl
  exact hrows ▸ execDrw_ok hps

/-- A draw leaves I and memory alone, so the same DXYN after it draws the same rows (R212). -/
theorem exec_drw_after_draw {s : State} {n : BitVec 4} (hfits : fitsMemory s.cfg s.iReg.toNat n.toNat) (x y : RegIx)
    (rows : List Byte) : exec (.drw x y n) (advance (drawRows s x y rows)) =
      .next (advance (drawRows (advance (drawRows s x y rows)) x y (spriteRows s n))) :=
  exec_drw_of_fits (s := advance (drawRows s x y rows)) hfits x y

/-- The pixels that DXYN covers are those that its rows land on from its start (R210, R212). -/
theorem spriteCovers_iff {s : State} {x y : RegIx} {n : BitVec 4} {px py : Nat} : spriteCovers s x y n px py ↔
    (px, py) ∈ spritePixels (startColumn (readV s x)) (startRow (readV s y)) (spriteRows s n) := by
  simp only [mem_spritePixels, spriteRows, List.length_map, List.length_range, List.getElem_map, List.getElem_range,
    exists_prop, Prod.mk.injEq]
  rfl

theorem drawRows_fb (s : State) (x y : RegIx) (rows : List Byte) :
    (drawRows s x y rows).fb = (drawSprite s.fb (startColumn (readV s x)) (startRow (readV s y)) rows).1 := rfl

/-- VF after a draw is its collision flag. -/
theorem readV_drawRows_vf (s : State) (x y : RegIx) (rows : List Byte) : readV (advance (drawRows s x y rows)) 15 =
    collisionFlag (drawSprite s.fb (startColumn (readV s x)) (startRow (readV s y)) rows).2 :=
  readV_writeVF_vf _ _

/-- VF after a draw that collides exactly when `P` holds. -/
theorem readV_drawRows_vf_of_iff {s : State} {x y : RegIx} {rows : List Byte} {P : Prop}
    (h : (drawSprite s.fb (startColumn (readV s x)) (startRow (readV s y)) rows).2 = true ↔ P) :
    (P → readV (advance (drawRows s x y rows)) 15 = 1) ∧ (¬P → readV (advance (drawRows s x y rows)) 15 = 0) := by
  rw [readV_drawRows_vf]
  exact ⟨fun hP => congrArg collisionFlag (h.mpr hP),
    fun hP => congrArg collisionFlag (Bool.eq_false_iff.mpr (mt h.mp hP))⟩

/-- DXYN collides exactly when it covers a pixel that is on (R212). -/
theorem collides_iff_covers_on (s : State) (x y : RegIx) (n : BitVec 4) :
    (drawSprite s.fb (startColumn (readV s x)) (startRow (readV s y)) (spriteRows s n)).2 = true ↔
      ∃ px py, spriteCovers s x y n px py ∧ pixel s.fb px py = true := by
  simp only [drawSprite_collides_iff (spriteRows_length_le s n), Prod.exists, spriteCovers_iff]

/-- Settles O47: in range the covered pixels are those of the rows drawn; else the instruction halts. -/
theorem drawFlipsCoveredPixels : Obligations.DrawFlipsCoveredPixels := by
  refine fun x y n s => ⟨fun hfits => ?_, fun hout => ⟨_, execDrw_halt (physRange_none_of_not_fits hout), rfl⟩⟩
  obtain ⟨hone, hzero⟩ := readV_drawRows_vf_of_iff (collides_iff_covers_on s x y n)
  refine ⟨_, exec_drw_of_fits hfits x y, fun px py hx hy => ?_, hone, hzero, fun r hr => readV_writeVF_ne _ _ hr, rfl⟩
  rw [spriteCovers_iff, advance_fb, drawRows_fb, pixel_drawSprite (spriteRows_length_le s n) s.fb _ _ hx hy]
  exact ⟨fun hcov => by rw [decide_eq_true hcov, Bool.xor_true],
    fun hcov => by rw [decide_eq_false hcov, Bool.xor_false]⟩

/-- Settles O48: the second draw is of the same rows from the same start. -/
theorem secondDrawRestoresTheFramebuffer : Obligations.SecondDrawRestoresTheFramebuffer := by
  intro x y n s t hfits hexec hx hy
  cases (exec_drw_of_fits hfits x y).symm.trans hexec
  have hrows := spriteRows_length_le s n
  refine ⟨_, exec_drw_after_draw hfits x y _, ?_, readV_drawRows_vf_of_iff ?_⟩
  · rw [advance_fb, drawRows_fb, hx, hy]
    exact drawSprite_drawSprite hrows s.fb _ _
  · rw [hx, hy]
    exact drawSprite_second_collides_iff hrows s.fb _ _

/-! ### 00E0 -/

/-- Settles O46: every pixel of the blank framebuffer is off. -/
theorem clearScreenClearsEveryPixel : Obligations.ClearScreenClearsEveryPixel :=
  fun _ => ⟨_, rfl, pixel_blankFramebuffer, rfl⟩

end Sys2Proof.Machine
end

section
/-! PROOFS. Keys and timers (44_input_timer.md): the skips on a key (R230, R231), the wait for a key and its polling (R232,
R233), and the timer instructions with their words (R234 to R236, R86). -/

namespace Sys2Proof

/-- The word of an instruction that the configuration does not have matches that instruction's row, which is refused
(R86). -/
theorem decode_encode_of_not_wellFormed {c : Config} {i : Instr} (hwf : i.wellFormed c = false) :
    decode c (encode i) = .rejected (.timerOpsAbsent (encode i)) := by
  obtain ⟨r, hr, -, hm, hbuild⟩ := encode_hasRow i
  rw [decode, find?_eq_some_of_pairwise_exclusive (opcodeTable_exclusive _) hr hm]
  exact if_neg (by rw [hbuild, hwf]; exact Bool.false_ne_true)

namespace Machine

/-! ### Skips on a key -/

theorem skipIf_eq (s : State) (b : Bool) : skipIf s b = { s with pc := if b then s.pc + 4 else s.pc + 2 } := by
  rw [← skipIf_decide, Bool.decide_eq_true]

theorem skipIf_not (s : State) (b : Bool) : skipIf s (!b) = { s with pc := if b then s.pc + 2 else s.pc + 4 } := by
  rw [← skipIf_decide_not, decide_not, Bool.decide_eq_true]

/-- The key that a skip tests is named by VX's low nibble (R230). -/
theorem keyOf_eq (s : State) (x : RegIx) :
    keyOf s x = s.keys[(readV s x).toNat % 16]'(Nat.mod_lt _ (Nat.succ_pos 15)) := by
  simp only [keyOf, toNat_lowNibble]

/-- Settles O50: EX9E skips on the key, EXA1 on its opposite. -/
theorem keySkips : Obligations.KeySkips := by
  intro x s down hdown
  obtain rfl : down = keyOf s x := hdown.trans (keyOf_eq s x).symm
  exact ⟨congrArg _ (skipIf_eq s _), congrArg _ (skipIf_not s _)⟩

/-! ### The wait for a key -/

/-- Settles O51: the wait and the advance are all that FX0A writes. -/
theorem keyWaitEntersWaiting : Obligations.KeyWaitEntersWaiting := fun _ _ => ⟨_, rfl, rfl, fun _ => rfl⟩

/-- R35: a key is just pressed when it is down now and was up before. -/
theorem justPressed_iff {s : State} {k : RegIx} :
    justPressed s k = true ↔ s.keys[k.toNat]'k.isLt = true ∧ s.prevKeys[k.toNat]'k.isLt = false := by
  simp [justPressed]

/-- Whichever way the tie falls, the key chosen is one of those just pressed (R35; log 4). -/
theorem justPressed_of_anyJustPressed {s : State} {k : RegIx} (h : anyJustPressed s = some k) :
    justPressed s k = true := by
  suffices hmem : k ∈ justPressedKeys s from (List.mem_filter.mp hmem).2
  unfold anyJustPressed at h
  split at h
  case h_1 => cases h
  case h_2 j hkeys =>
    cases h
    simp [hkeys]
  case h_3 j j' js hkeys =>
    cases h
    have hlt : Config.keyTieBreak s.draws % (js.length + 2) < (j :: j' :: js).length := Nat.mod_lt _ (Nat.succ_pos _)
    rw [hkeys, List.getD_eq_getElem _ _ hlt]
    exact List.getElem_mem hlt

/-- A step that resumes stores a just-pressed key's index, zero-extended, and changes no other register (R233). -/
theorem stepWaiting_some_writes {s : State} {k : RegIx} (h : anyJustPressed s = some k) (x : RegIx) :
    readV (stepWaiting x s) x = BitVec.ofNat 8 k.toNat ∧ (∀ r, r ≠ x → readV (stepWaiting x s) r = readV s r) ∧
      stepWaiting x s = { s with v := (stepWaiting x s).v, run := .running, draws := (stepWaiting x s).draws } := by
  rw [stepWaiting_some h]
  exact ⟨(readV_writeV_same s x _).trans (BitVec.ofNat_toNat 8 k).symm, fun _ hr => readV_writeV_ne s _ hr, rfl⟩

/-- Settles O11: the step polls the keys; with none just pressed it is idle, else it stores the one chosen. -/
theorem waitingStepPollsTheKeys : Obligations.WaitingStepPollsTheKeys := by
  intro s x hwait
  simp only [← justPressed_iff, step_waiting hwait]
  refine ⟨fun hnone => ?_, fun ⟨j, hj⟩ => ?_⟩
  · rw [stepWaiting_none (anyJustPressed_eq_none_iff.mpr fun k => Bool.eq_false_iff.mpr (hnone k))]
  · cases hany : anyJustPressed s with
    | none => exact absurd hj (Bool.eq_false_iff.mp (anyJustPressed_eq_none_iff.mp hany j))
    | some k =>
      obtain ⟨hx, hothers, hframe⟩ := stepWaiting_some_writes hany x
      obtain ⟨hdown, hup⟩ := justPressed_iff.mp (justPressed_of_anyJustPressed hany)
      exact ⟨k, _, hdown, hup, rfl, hx, hothers, hframe⟩

/-! ### Timers -/

/-- A configuration has the timer instructions exactly when `TIMER_OPS` is true (R86, R87). -/
theorem wellFormed_timerInstr (c : Config) {x : RegIx} {i : Instr} (hi : i = .ldVxDt x ∨ i = .ldDtVx x ∨ i = .ldStVx x) :
    i.wellFormed c = c.timerOps := by
  obtain rfl | rfl | rfl := hi <;> rfl

theorem soundOn_iff {s : State} : soundOn s = true ↔ 0 < s.st.toNat := decide_eq_true_iff

/-- Settles O52: one register or timer write each; their words are instructions as far as `TIMER_OPS` goes. -/
theorem timerInstructions : Obligations.TimerInstructions := by
  refine fun x s c => ⟨writeResult_writes s x s.dt, rfl, ⟨_, rfl, rfl, soundOn_iff⟩, fun i hi => ?_⟩
  rw [← wellFormed_timerInstr c hi]
  exact ⟨decode_encode, decode_encode_of_not_wellFormed⟩

end Machine
end Sys2Proof
end

section
/-! PROOFS. Exceptions (60_exceptions.md): which step halts, for what cause, and that a halt changes nothing else (R261 to
R264); how long a wait lasts (R275); the timers, the sound signal and the host's operations (R268 to R273). -/

namespace Sys2Proof.Machine

/-! ### The causes of a halt (R261, R264) -/

/-- How many bytes from I on the data access of an instruction takes: 0 when it has none (R53, R184 to R186, R212). -/
def dataAccessLength : Instr → Nat
  | .drw _ _ n => n.toNat
  | .ldBVx _ => 3
  | .ldMemVx x | .ldVxMem x => x.toNat + 1
  | _ => 0

/-- The table of R261 for an instruction `i` that is run in `s`: when it halts, by reason. -/
def InstrHalts (s : State) (i : Instr) : HaltReason → Prop
  | .stackOverflow => (∃ nnn, i = .call nnn) ∧ 16 ≤ s.stack.length
  | .stackUnderflow => i = .ret ∧ s.stack = []
  | .unknownOpcode => False
  | .addressOutOfRange => ¬ fitsMemory s.cfg s.iReg.toNat (dataAccessLength i)

theorem fitsMemory_zero (c : Config) (a : Nat) : fitsMemory c a 0 := .inr (.inl rfl)

theorem fatal_of_not_fitsMemory {c : Config} {a n : Nat} (h : ¬ fitsMemory c a n) : c.addrMode = .fatal :=
  fatal_of_physRange_none (physRange_none_of_not_fits h)

theorem instrHalts_ret_iff {s : State} {r : HaltReason} :
    InstrHalts s .ret r ↔ r = .stackUnderflow ∧ s.stack = [] := by
  cases r <;> simp [InstrHalts, dataAccessLength, fitsMemory_zero]

theorem instrHalts_call_iff {s : State} {nnn : BitVec 12} {r : HaltReason} :
    InstrHalts s (.call nnn) r ↔ r = .stackOverflow ∧ 16 ≤ s.stack.length := by
  cases r <;> simp [InstrHalts, dataAccessLength, fitsMemory_zero]

/-- Only return and call use the stack; any other instruction halts only on its data access. -/
theorem instrHalts_iff_of_not_stack {s : State} {i : Instr} {r : HaltReason} (hret : i ≠ .ret)
    (hcall : ∀ nnn, i ≠ .call nnn) :
    InstrHalts s i r ↔ r = .addressOutOfRange ∧ ¬ fitsMemory s.cfg s.iReg.toNat (dataAccessLength i) := by
  cases r <;> simp [InstrHalts, hret, hcall]

/-- An operation that halts with `r₀` in the case `P`, and else leaves the engine running, ends halted for that reason and
in that case only. -/
theorem run_halted_iff {s t : State} {P : Prop} {r₀ r : HaltReason} (hhalt : P → t = raiseHalt r₀ s)
    (hok : ¬ P → t.run = .running) : t.run = .halted r ↔ r = r₀ ∧ P := by
  by_cases hP : P
  · simp [hhalt hP, hP, eq_comm]
  · simp [hok hP, hP]

/-- An instruction that needs its data access in range, and then keeps the engine state, halts when R261 says so. -/
theorem access_halts_iff {i : Instr} {s t : State} {r : HaltReason}
    (hout : physRange s.cfg s.iReg.toNat (dataAccessLength i) = none →
      exec i s = .next (raiseHalt .addressOutOfRange s))
    (hin : ∀ ps, physRange s.cfg s.iReg.toNat (dataAccessLength i) = some ps →
      ∃ u, exec i s = .next u ∧ u.run = s.run)
    (hret : i ≠ .ret) (hcall : ∀ nnn, i ≠ .call nnn) (hrun : s.run = .running) (h : exec i s = .next t) :
    t.run = .halted r ↔ InstrHalts s i r := by
  rw [instrHalts_iff_of_not_stack hret hcall]
  refine run_halted_iff (s := s) (fun hfail => ?_) fun hfits => ?_
  · cases (hout (physRange_none_of_not_fits hfail)).symm.trans h
    rfl
  · obtain ⟨ps, hps⟩ := physRange_of_fits (not_not.mp hfits)
    obtain ⟨u, hu, hkept⟩ := hin ps hps
    cases hu.symm.trans h
    exact hkept.trans hrun

/-- An instruction run in `Running` halts for exactly the causes of R261. -/
theorem exec_halts_iff {i : Instr} {s t : State} {r : HaltReason} (hrun : s.run = .running) (h : exec i s = .next t) :
    t.run = .halted r ↔ InstrHalts s i r := by
  cases i with
  | ret =>
    refine (run_halted_iff (s := s) (fun hempty => ?_) fun hne => ?_).trans instrHalts_ret_iff.symm
    · cases (execRet_empty hempty).symm.trans h; rfl
    · cases (execRet_ok (List.dropLast_append_getLast hne).symm).symm.trans h
      exact hrun
  | call nnn =>
    refine (run_halted_iff (s := s) (fun hfull => ?_) fun hroom => ?_).trans instrHalts_call_iff.symm
    · cases (execCall_full (by omega) nnn).symm.trans h; rfl
    · cases (execCall_ok (by omega) nnn).symm.trans h; exact hrun
  | drw x y n =>
    exact access_halts_iff execDrw_halt (fun ps hps => ⟨_, execDrw_ok hps, rfl⟩) nofun nofun hrun h
  | ldBVx x =>
    exact access_halts_iff execLdBVx_halt (fun ps hps => ⟨_, execLdBVx_ok hps, by rw [writeCells_eq]; rfl⟩)
      nofun nofun hrun h
  | ldMemVx x =>
    exact access_halts_iff execLdMemVx_halt
      (fun ps hps => ⟨_, execLdMemVx_ok hps, by rw [incrementI_eq, writeCells_eq]; rfl⟩) nofun nofun hrun h
  | ldVxMem x =>
    exact access_halts_iff execLdVxMem_halt
      (fun ps hps => ⟨_, execLdVxMem_ok hps, by rw [incrementI_eq, writeRegsFrom_eq]; rfl⟩) nofun nofun hrun h
  | addIVx x =>
    cases h
    rw [instrHalts_iff_of_not_stack (by nofun) (by nofun)]
    by_cases hq : s.cfg.addISetsVf = true <;> simp [dataAccessLength, fitsMemory_zero, hrun, hq]
  | _ =>
    cases h
    rw [instrHalts_iff_of_not_stack (by nofun) (by nofun)]
    simp [dataAccessLength, fitsMemory_zero, hrun]

/-- Everything that halts a step of a running engine, in the order of R264: the fetch, an unknown word, the instruction. -/
theorem step_halts_iff {s t : State} {r : HaltReason} (hrun : s.run = .running) (h : step s = .next t) :
    t.run = .halted r ↔
      (r = .addressOutOfRange ∧ ¬ fitsMemory s.cfg s.pc.toNat 2) ∨
      (r = .unknownOpcode ∧ s.cfg.strictUnknown = true ∧ ∃ op e, fetch s = .ok op ∧ decode s.cfg op = .rejected e) ∨
      ∃ i, nextInstr s i ∧ InstrHalts s i r := by
  obtain ⟨hf, -, rfl⟩ | ⟨op, e, hf, hd, rfl⟩ | ⟨op, i, hf, hd, hexec⟩ := step_running_cases hrun h
  · have hout := fetch_error_iff.mp hf
    simp [nextInstr, hf, hout]
    exact eq_comm
  · have hfits := fetch_ok_iff.mp ⟨op, hf⟩
    by_cases hstrict : s.cfg.strictUnknown = true
    · simp [unknownOpcode_strict hstrict, nextInstr, hf, hd, hfits, hstrict]
      exact eq_comm
    · simp [unknownOpcode_logged hstrict, nextInstr, hf, hd, hfits, hstrict, hrun]
  · have hfits := fetch_ok_iff.mp ⟨op, hf⟩
    simp [exec_halts_iff hrun hexec, nextInstr, hf, hd, hfits]

/-- The instructions whose data access is out of range are DXYN, FX33, FX55 and FX65. -/
theorem nextInstr_access_out_iff {s : State} :
    (∃ i, nextInstr s i ∧ InstrHalts s i .addressOutOfRange) ↔
      (∃ x y n, nextInstr s (.drw x y n) ∧ ¬ fitsMemory s.cfg s.iReg.toNat n.toNat) ∨
      (∃ x, nextInstr s (.ldBVx x) ∧ ¬ fitsMemory s.cfg s.iReg.toNat 3) ∨
      (∃ x, nextInstr s (.ldMemVx x) ∧ ¬ fitsMemory s.cfg s.iReg.toNat (x.toNat + 1)) ∨
      (∃ x, nextInstr s (.ldVxMem x) ∧ ¬ fitsMemory s.cfg s.iReg.toNat (x.toNat + 1)) := by
  constructor
  · rintro ⟨i, hi, hout⟩
    cases i with
    | drw x y n => exact .inl ⟨x, y, n, hi, hout⟩
    | ldBVx x => exact .inr (.inl ⟨x, hi, hout⟩)
    | ldMemVx x => exact .inr (.inr (.inl ⟨x, hi, hout⟩))
    | ldVxMem x => exact .inr (.inr (.inr ⟨x, hi, hout⟩))
    | _ => exact absurd (fitsMemory_zero _ _) hout
  · rintro (⟨x, y, n, h⟩ | ⟨x, h⟩ | ⟨x, h⟩ | ⟨x, h⟩)
    · exact ⟨_, h⟩
    · exact ⟨_, h⟩
    · exact ⟨_, h⟩
    · exact ⟨_, h⟩

/-- Settles O16: each reason's clause is what is left of `step_halts_iff` for that reason. -/
theorem haltCauses : Obligations.HaltCauses := by
  intro s t hrun h
  refine ⟨?_, ?_, ?_, ?_⟩
  · rw [step_halts_iff hrun h, ← nextInstr_access_out_iff]
    have hfatal : (¬ fitsMemory s.cfg s.pc.toNat 2 ∨ ∃ i, nextInstr s i ∧ InstrHalts s i .addressOutOfRange) →
        s.cfg.addrMode = .fatal := by
      rintro (hout | ⟨i, -, hout⟩)
      · exact fatal_of_not_fitsMemory hout
      · exact fatal_of_not_fitsMemory hout
    simpa using hfatal
  · simp [step_halts_iff hrun h, InstrHalts]
  · simp [step_halts_iff hrun h, InstrHalts]
  · simp [step_halts_iff hrun h, InstrHalts]

/-- A step that ends halted leaves the state as it found it, but for the engine state (R262). -/
theorem step_eq_raiseHalt {s t : State} {r : HaltReason} (hrun : s.run = .running) (h : step s = .next t)
    (hhalt : t.run = .halted r) : t = raiseHalt r s := by
  obtain ⟨-, -, rfl⟩ | ⟨op, e, -, -, rfl⟩ | ⟨op, i, -, -, hexec⟩ := step_running_cases hrun h
  · cases hhalt; rfl
  · by_cases hstrict : s.cfg.strictUnknown = true
    · rw [unknownOpcode_strict hstrict] at hhalt ⊢
      cases hhalt; rfl
    · rw [unknownOpcode_logged hstrict] at hhalt
      cases hhalt.symm.trans hrun
  · obtain ⟨r', rfl, -⟩ | ⟨-, hkept | ⟨x, -, hwait⟩, -⟩ := exec_cases hexec
    · cases hhalt; rfl
    · cases hhalt.symm.trans (hkept.trans hrun)
    · cases hhalt.symm.trans hwait

/-- Settles O15: fetch, unknown word and instruction in turn. -/
theorem haltsArePrecise : Obligations.HaltsArePrecise := fun _ _ _ => step_eq_raiseHalt

/-! ### The wait (R275) -/

/-- `t` is `s` but for what ticks and render acknowledgements change: the timers and the render notification. -/
def SameButTimersAndRender (s t : State) : Prop :=
  t = { s with dt := t.dt, st := t.st, renderPending := t.renderPending }

theorem SameButTimersAndRender.refl (s : State) : SameButTimersAndRender s s := rfl

theorem justPressed_congr {s t : State} (hkeys : t.keys = s.keys) (hprev : t.prevKeys = s.prevKeys) (k : RegIx) :
    justPressed t k = justPressed s k := by simp only [justPressed, hkeys, hprev]

/-- With no just-pressed key, no step, tick or acknowledgement takes a waiting engine any further than the timers and the
acknowledgements do. -/
theorem applyEvent_waiting {s t u : State} {x : RegIx} {e : Event} (hwait : s.run = .waitingForKey x)
    (hnone : ∀ k, justPressed s k = false) (he : e = .step ∨ e = .tick ∨ e = .ackRender)
    (hst : SameButTimersAndRender s t) (h : applyEvent e t = .next u) : SameButTimersAndRender s u := by
  obtain rfl | rfl | rfl := he
  · have hidle : anyJustPressed t = none := anyJustPressed_eq_none_iff.mpr fun k =>
      (justPressed_congr (congrArg State.keys hst) (congrArg State.prevKeys hst) k).trans (hnone k)
    cases (step_waiting ((congrArg State.run hst).trans hwait)).symm.trans h
    rw [stepWaiting_none hidle]
    exact hst
  · cases h; rw [hst]; rfl
  · cases h; rw [hst]; rfl

/-- Settles O13: the events of the schedule keep the wait, one by one. -/
theorem waitLastsUntilAKeyIsPressed : Obligations.WaitLastsUntilAKeyIsPressed := by
  intro s x es hwait hkeys hes
  have hnone : ∀ k, justPressed s k = false := fun k => Bool.eq_false_iff.mpr fun hk => hkeys k (justPressed_iff.mp hk)
  obtain ⟨t, ht⟩ := runEvents_answers es s
  exact ⟨t, ht, runEvents_keeps (P := SameButTimersAndRender s)
    (fun e he _ _ => applyEvent_waiting hwait hnone (hes e he)) (.refl s) ht⟩

/-! ### Timers and the sound signal (R268, R269) -/

/-- A tick takes 1 from a timer, never below 0 (R268). -/
theorem toNat_tickDown (b : Byte) : (if b = 0 then 0 else b - 1).toNat = b.toNat - 1 := by
  split
  case isTrue hb => rw [hb]; rfl
  case isFalse hb => bv_omega

/-- Settles O53, by induction on the number of ticks. -/
theorem ticksCountDownAndClamp : Obligations.TicksCountDownAndClamp := by
  intro n
  induction n with
  | zero => exact fun s => ⟨s, rfl, rfl, rfl, rfl⟩
  | succ n ih =>
    intro s
    obtain ⟨t, hticks, hdt, hst, hframe⟩ := ih (tick s)
    refine ⟨t, hticks, ?_, ?_, hframe⟩
    · rw [hdt, tick_dt, toNat_tickDown]; omega
    · rw [hst, tick_st, toNat_tickDown]; omega

theorem soundOn_congr {s t : State} (h : t.st = s.st) : soundOn t = soundOn s := by rw [soundOn, h, soundOn]

/-- A tick changes the sound signal only at its last count (R269). -/
theorem tick_soundOn_ne {s : State} (h : soundOn (tick s) ≠ soundOn s) : s.st = 1 := by
  rw [ne_eq, Bool.eq_iff_iff, soundOn_iff, soundOn_iff, tick_st, toNat_tickDown] at h
  bv_omega

@[simp] theorem unknownOpcode_st (op : Word) (s : State) : (unknownOpcode op s).st = s.st := by
  unfold unknownOpcode
  split
  · exact raiseHalt_st s _
  · rw [advance_st, appendDiag_st]

@[simp] theorem stepWaiting_st (x : RegIx) (s : State) : (stepWaiting x s).st = s.st := by
  unfold stepWaiting
  split <;> rfl

/-- FX18, and nothing else that a step does, writes ST (R236). -/
theorem step_st_ne {s t : State} (h : step s = .next t) (hne : t.st ≠ s.st) :
    s.run = .running ∧ ∃ x, nextInstr s (.ldStVx x) := by
  cases hrun : s.run with
  | running =>
    obtain ⟨-, -, rfl⟩ | ⟨op, e, -, -, rfl⟩ | ⟨op, i, hf, hd, hexec⟩ := step_running_cases hrun h
    · exact absurd (raiseHalt_st s _) hne
    · exact absurd (unknownOpcode_st op s) hne
    · obtain ⟨-, -, -, -, -, hst, -⟩ := componentsChangeOnlyByTheirWriters i s t hexec
      obtain ⟨x, rfl⟩ := hst hne
      exact ⟨rfl, x, op, hf, hd⟩
  | waitingForKey x => cases (step_waiting hrun).symm.trans h; exact absurd (stepWaiting_st x s) hne
  | halted r => cases (step_halted hrun).symm.trans h; exact absurd rfl hne

/-- Settles O54, event by event: only ticks and steps can change ST. -/
theorem soundChangesOnlyByFx18OrTick : Obligations.SoundChangesOnlyByFx18OrTick := by
  intro e s t hload h hne
  cases e with
  | step => exact .inr ⟨rfl, step_st_ne h fun hst => hne (soundOn_congr hst)⟩
  | tick =>
    cases h
    have hlast := tick_soundOn_ne hne
    exact .inl ⟨rfl, hlast, by rw [tick_st, hlast]; rfl⟩
  | refreshKeys k => cases h; exact absurd (soundOn_congr (refreshKeys_st s k)) hne
  | ackRender => cases h; exact absurd (soundOn_congr (ackRender_st s)) hne
  | loadImage b => exact absurd rfl (hload b)

/-! ### Key refreshes and render acknowledgements (R271, R273) -/

/-- Between two equal snapshots no key is just pressed (R35). -/
theorem justPressed_of_keys_eq_prevKeys {s : State} (h : s.keys = s.prevKeys) (j : RegIx) : justPressed s j = false := by
  simp only [justPressed, h, Bool.and_not_self]

/-- Settles O55: both operations are the record updates named, and the second refresh leaves two equal snapshots. -/
theorem refreshAndAcknowledge : Obligations.RefreshAndAcknowledge := fun _ _ =>
  ⟨rfl, rfl, justPressed_of_keys_eq_prevKeys rfl⟩

end Sys2Proof.Machine
end

section
/-! PROOFS. Idle states, which steps leave unchanged (R297), and the first step after an empty image (R293). -/

namespace Sys2Proof.Machine

/-! ### Idle states (R297) -/

/-- A jump to where PC already is changes nothing (R111). -/
theorem exec_jp_self {s : State} {nnn : BitVec 12} (h : zext16 nnn = s.pc) : exec (.jp nnn) s = .next s := by
  change Host.Outcome.next (writePC s (zext16 nnn)) = .next s
  rw [h]
  rfl

theorem step_idle {s : State} (hidle : s.idle) : step s = .next s := by
  obtain ⟨hrun, op, nnn, hfetch, hdecode, htarget⟩ := hidle
  rw [step_of_nextInstr hrun ⟨op, hfetch, hdecode⟩, exec_jp_self htarget]

/-- Settles O22, by induction on the number of steps. -/
theorem idleStateStaysPut : Obligations.IdleStateStaysPut := by
  intro s hidle n
  induction n with
  | zero => rfl
  | succ n ih => rw [List.replicate_succ, runEvents_cons (e := .step) (step_idle hidle), ih]

/-! ### The first step after an empty image (R293) -/

/-- The word 0x0000 matches no row (R85). -/
theorem decode_zero (c : Config) : decode c 0x0000 = .rejected (.unknownOpcode 0x0000) := by
  have hnone : opcodeTable.find? (·.matchesWord 0x0000) = none := by decide
  rw [decode, hnone]

/-- An allowed font ends before the programs begin (R59, R290). -/
theorem resetByte_from_progBase {c : Config} (hc : c.wf) {p : Nat} (hp : progBase ≤ p) : resetByte c p = 0 := by
  obtain ⟨hfont, -⟩ := hc
  have hfits : c.fontBase + fontSize ≤ progBase := by simp only [fontSize, progBase]; omega
  exact resetByte_outside_font (.inr (hfits.trans hp))

/-- An empty image leaves the reset state (R62). -/
theorem loadImage_nil (s : State) : loadImage [] s = .ok (resetMachine s) := loadImage_accepts (Nat.zero_le _) s

theorem fetch_resetMachine {s : State} (hc : s.cfg.wf) : fetch (resetMachine s) = .ok 0x0000 := by
  have hfits : fitsMemory (resetMachine s).cfg (resetMachine s).pc.toNat 2 := .inr (.inr (by decide : 0x200 + 2 ≤ memSize))
  have hhigh : readCell (resetMachine s) 0x200 = 0 := resetByte_from_progBase hc (Nat.le_refl _)
  have hlow : readCell (resetMachine s) 0x201 = 0 := resetByte_from_progBase hc (Nat.le_succ _)
  calc fetch (resetMachine s)
      = .ok (bigEndian (readCell (resetMachine s) 0x200) (readCell (resetMachine s) 0x201)) := fetch_of_fits hfits
    _ = .ok 0x0000 := by rw [hhigh, hlow]; rfl

/-- Settles O58: the reset state fetches the unknown word 0x0000, and R92 says what follows. -/
theorem firstStepAfterAnEmptyImage : Obligations.FirstStepAfterAnEmptyImage := by
  intro s hc
  obtain ⟨hstrict, hlogged⟩ :=
    unknownWordIsLoggedOrHalts (resetMachine s) 0x0000 _ rfl (fetch_resetMachine hc) (decode_zero s.cfg)
  exact ⟨_, loadImage_nil s, hlogged, hstrict⟩

end Sys2Proof.Machine
end
